-- ==== Sys2Proof/Word.lean ====
section
/-! DEFINITION. The word types of the machine (spec 00_scope.md R8, R10): an 8-bit byte, a 16-bit word, and the
4-bit and 12-bit fields of an instruction word. -/

namespace Sys2Proof

/-- One byte: a memory cell, a general register, a timer, a pixel (R8). -/
abbrev Byte := BitVec 8

/-- Sixteen bits: an instruction word, `I`, `pc`, a stack entry (R8). -/
abbrev Word := BitVec 16

/-- A 4-bit field: a register index or the nibble immediate (R91). -/
abbrev Nibble := BitVec 4

/-- A 12-bit field: the address or immediate `nnn` (R91). -/
abbrev Addr := BitVec 12

end Sys2Proof
end

