-- ==== Sys2Proof/Syntax.lean ====
section
/-! DEFINITION. The instructions: one constructor per row of spec/opcode_table.json (35 instructions and six rows of
unmapped words). Every field of the word that the row does not fix is an argument, also a field the instruction
ignores, so that each 16-bit word is exactly one well-formed term: DESIGN CHOICE, safe (log entry 12), since the decode of R105
drops the ignored bits (spec 30_encoding.md R91, R98, R99, R100). -/

namespace Sys2Proof

/-- The instruction set (R99, R100). `x` and `y` are register indices, `nn` and `kk` low bytes, `nnn` addresses. -/
inductive Instr where
  /-- 0NNN, SYS: a no-op (R126). -/
  | sys (nnn : Addr)
  /-- 00E0, CLS (R220). -/
  | cls
  /-- 00EE, RET (R140). -/
  | ret
  /-- 1NNN, JP (R141). -/
  | jp (nnn : Addr)
  /-- 2NNN, CALL (R142). -/
  | call (nnn : Addr)
  /-- 3XNN, SE Vx, nn (R143). -/
  | seImm (x : Nibble) (nn : Byte)
  /-- 4XNN, SNE Vx, nn (R144). -/
  | sneImm (x : Nibble) (nn : Byte)
  /-- 5XYN, SE Vx, Vy (R145): the low nibble is ignored (R98). -/
  | seReg (x y ignored : Nibble)
  /-- 6XNN, LD Vx, nn (R170). -/
  | ldImm (x : Nibble) (nn : Byte)
  /-- 7XNN, ADD Vx, nn (R171). -/
  | addImm (x : Nibble) (nn : Byte)
  /-- 8XY0, LD Vx, Vy (R191). -/
  | ldReg (x y : Nibble)
  /-- 8XY1, OR Vx, Vy (R192). -/
  | orReg (x y : Nibble)
  /-- 8XY2, AND Vx, Vy (R193). -/
  | andReg (x y : Nibble)
  /-- 8XY3, XOR Vx, Vy (R194). -/
  | xorReg (x y : Nibble)
  /-- 8XY4, ADD Vx, Vy (R195). -/
  | addReg (x y : Nibble)
  /-- 8XY5, SUB Vx, Vy (R196). -/
  | subReg (x y : Nibble)
  /-- 8XY6, SHR Vx (R197): the Y field is ignored (D4). -/
  | shr (x ignored : Nibble)
  /-- 8XY7, SUBN Vx, Vy (R198). -/
  | subnReg (x y : Nibble)
  /-- 8XYE, SHL Vx (R199): the Y field is ignored (D4). -/
  | shl (x ignored : Nibble)
  /-- 9XYN, SNE Vx, Vy (R146): the low nibble is ignored (R98). -/
  | sneReg (x y ignored : Nibble)
  /-- ANNN, LD I, nnn (R172). -/
  | ldI (nnn : Addr)
  /-- BNNN, JP V0, nnn (R147). -/
  | jpV0 (nnn : Addr)
  /-- CXNN, RND Vx, nn (R173). -/
  | rnd (x : Nibble) (nn : Byte)
  /-- DXYN, DRW Vx, Vy, n (R221). -/
  | drw (x y n : Nibble)
  /-- EX9E, SKP Vx (R240). -/
  | skp (x : Nibble)
  /-- EXA1, SKNP Vx (R241). -/
  | sknp (x : Nibble)
  /-- FX07, LD Vx, DT (R260). -/
  | ldVxDt (x : Nibble)
  /-- FX0A, LD Vx, K (R242). -/
  | ldVxK (x : Nibble)
  /-- FX15, LD DT, Vx (R261). -/
  | ldDtVx (x : Nibble)
  /-- FX18, LD ST, Vx (R262). -/
  | ldStVx (x : Nibble)
  /-- FX1E, ADD I, Vx (R270). -/
  | addI (x : Nibble)
  /-- FX29, LD F, Vx (R222). -/
  | ldF (x : Nibble)
  /-- FX33, LD B, Vx (R271). -/
  | ldB (x : Nibble)
  /-- FX55, LD [I], Vx (R272). -/
  | storeRegs (x : Nibble)
  /-- FX65, LD Vx, [I] (R273). -/
  | loadRegs (x : Nibble)
  /-- The unmapped words 8XY8 and 8XY9; `lo` is bit 0 (R100). -/
  | unmapped89 (x y : Nibble) (lo : BitVec 1)
  /-- The unmapped words 8XYA and 8XYB; `lo` is bit 0 (R100). -/
  | unmappedAB (x y : Nibble) (lo : BitVec 1)
  /-- The unmapped words 8XYC and 8XYD; `lo` is bit 0 (R100). -/
  | unmappedCD (x y : Nibble) (lo : BitVec 1)
  /-- The unmapped words 8XYF (R100). -/
  | unmapped8F (x y : Nibble)
  /-- The unmapped words EXkk, kk neither 9E nor A1 (R100). -/
  | unmappedE (x : Nibble) (kk : Byte)
  /-- The unmapped words FXkk, kk none of the nine of R97 (R100). -/
  | unmappedF (x : Nibble) (kk : Byte)
  deriving DecidableEq, Repr

end Sys2Proof
end

