-- ==== Sys2Proof/WellFormed.lean ====
section
/-! DEFINITION. Which terms of `Instr` stand for a word: every one, but for a SYS whose address makes it CLS or RET and
an unmapped E- or F-slot word whose low byte is mapped (spec 30_encoding.md R94, R96, R97, R100). -/

namespace Sys2Proof

/-- The low bytes of slot E that are mapped (R96). -/
def slotEMapped : List Byte := [0x9E#8, 0xA1#8]

/-- The low bytes of slot F that are mapped (R97). -/
def slotFMapped : List Byte := [0x07#8, 0x0A#8, 0x15#8, 0x18#8, 0x1E#8, 0x29#8, 0x33#8, 0x55#8, 0x65#8]

/-- The term stands for a word, and that word decodes to it. -/
def Instr.wf : Instr → Bool
  | .sys nnn => nnn != 0x0E0#12 && nnn != 0x0EE#12
  | .cls => true
  | .ret => true
  | .jp _ => true
  | .call _ => true
  | .seImm _ _ => true
  | .sneImm _ _ => true
  | .seReg _ _ _ => true
  | .ldImm _ _ => true
  | .addImm _ _ => true
  | .ldReg _ _ => true
  | .orReg _ _ => true
  | .andReg _ _ => true
  | .xorReg _ _ => true
  | .addReg _ _ => true
  | .subReg _ _ => true
  | .shr _ _ => true
  | .subnReg _ _ => true
  | .shl _ _ => true
  | .sneReg _ _ _ => true
  | .ldI _ => true
  | .jpV0 _ => true
  | .rnd _ _ => true
  | .drw _ _ _ => true
  | .skp _ => true
  | .sknp _ => true
  | .ldVxDt _ => true
  | .ldVxK _ => true
  | .ldDtVx _ => true
  | .ldStVx _ => true
  | .addI _ => true
  | .ldF _ => true
  | .ldB _ => true
  | .storeRegs _ => true
  | .loadRegs _ => true
  | .unmapped89 _ _ _ => true
  | .unmappedAB _ _ _ => true
  | .unmappedCD _ _ _ => true
  | .unmapped8F _ _ => true
  | .unmappedE _ kk => !slotEMapped.contains kk
  | .unmappedF _ kk => !slotFMapped.contains kk

end Sys2Proof
end

