-- ==== Sys2Proof/Decode.lean ====
section
/-! DEFINITION. Decoding, total on every word (spec 30_encoding.md R90 to R98, R105), the same on a list of bytes, and
the encoder written from the opcode map R99. -/

namespace Sys2Proof

/-- Bits 15:12, the primary dispatch key (R91, R93). -/
def fieldSlot (w : Word) : Nibble := w.extractLsb' 12 4

/-- Bits 11:8, the first register index (R92). -/
def fieldX (w : Word) : Nibble := w.extractLsb' 8 4

/-- Bits 7:4, the second register index (R92). -/
def fieldY (w : Word) : Nibble := w.extractLsb' 4 4

/-- Bits 3:0, the nibble immediate (R92). -/
def fieldN (w : Word) : Nibble := w.extractLsb' 0 4

/-- Bits 7:0, the byte immediate (R92). -/
def fieldNN (w : Word) : Byte := w.extractLsb' 0 8

/-- Bits 11:0, the address (R92). -/
def fieldNNN (w : Word) : Addr := w.extractLsb' 0 12

/-- Bit 0, which the unmapped rows of slot 8 leave open. -/
def fieldLo (w : Word) : BitVec 1 := w.extractLsb' 0 1

/-- Slot 0 dispatches on the whole word (R94). -/
def decodeSlot0 (w : Word) : Instr :=
  if w = 0x00E0#16 then .cls else if w = 0x00EE#16 then .ret else .sys (fieldNNN w)

/-- Slot 8 dispatches on the low nibble (R95). -/
def decodeSlot8 (w : Word) : Instr :=
  match (fieldN w).toNat with
  | 0x0 => .ldReg (fieldX w) (fieldY w)
  | 0x1 => .orReg (fieldX w) (fieldY w)
  | 0x2 => .andReg (fieldX w) (fieldY w)
  | 0x3 => .xorReg (fieldX w) (fieldY w)
  | 0x4 => .addReg (fieldX w) (fieldY w)
  | 0x5 => .subReg (fieldX w) (fieldY w)
  | 0x6 => .shr (fieldX w) (fieldY w)
  | 0x7 => .subnReg (fieldX w) (fieldY w)
  | 0x8 => .unmapped89 (fieldX w) (fieldY w) (fieldLo w)
  | 0x9 => .unmapped89 (fieldX w) (fieldY w) (fieldLo w)
  | 0xA => .unmappedAB (fieldX w) (fieldY w) (fieldLo w)
  | 0xB => .unmappedAB (fieldX w) (fieldY w) (fieldLo w)
  | 0xC => .unmappedCD (fieldX w) (fieldY w) (fieldLo w)
  | 0xD => .unmappedCD (fieldX w) (fieldY w) (fieldLo w)
  | 0xE => .shl (fieldX w) (fieldY w)
  | _ => .unmapped8F (fieldX w) (fieldY w)

/-- Slot E dispatches on the low byte (R96). -/
def decodeSlotE (w : Word) : Instr :=
  if fieldNN w = 0x9E#8 then .skp (fieldX w)
  else if fieldNN w = 0xA1#8 then .sknp (fieldX w)
  else .unmappedE (fieldX w) (fieldNN w)

/-- Slot F dispatches on the low byte (R97). -/
def decodeSlotF (w : Word) : Instr :=
  if fieldNN w = 0x07#8 then .ldVxDt (fieldX w)
  else if fieldNN w = 0x0A#8 then .ldVxK (fieldX w)
  else if fieldNN w = 0x15#8 then .ldDtVx (fieldX w)
  else if fieldNN w = 0x18#8 then .ldStVx (fieldX w)
  else if fieldNN w = 0x1E#8 then .addI (fieldX w)
  else if fieldNN w = 0x29#8 then .ldF (fieldX w)
  else if fieldNN w = 0x33#8 then .ldB (fieldX w)
  else if fieldNN w = 0x55#8 then .storeRegs (fieldX w)
  else if fieldNN w = 0x65#8 then .loadRegs (fieldX w)
  else .unmappedF (fieldX w) (fieldNN w)

/-- The complete decode of a word (R105). It is total and never faults (R124). -/
def decode (w : Word) : Instr :=
  match (fieldSlot w).toNat with
  | 0x0 => decodeSlot0 w
  | 0x1 => .jp (fieldNNN w)
  | 0x2 => .call (fieldNNN w)
  | 0x3 => .seImm (fieldX w) (fieldNN w)
  | 0x4 => .sneImm (fieldX w) (fieldNN w)
  | 0x5 => .seReg (fieldX w) (fieldY w) (fieldN w)
  | 0x6 => .ldImm (fieldX w) (fieldNN w)
  | 0x7 => .addImm (fieldX w) (fieldNN w)
  | 0x8 => decodeSlot8 w
  | 0x9 => .sneReg (fieldX w) (fieldY w) (fieldN w)
  | 0xA => .ldI (fieldNNN w)
  | 0xB => .jpV0 (fieldNNN w)
  | 0xC => .rnd (fieldX w) (fieldNN w)
  | 0xD => .drw (fieldX w) (fieldY w) (fieldN w)
  | 0xE => decodeSlotE w
  | _ => decodeSlotF w

/-- A word from its two bytes in memory order: the first byte is the high half (R63, R121). -/
def wordOfBytes (hi lo : Byte) : Word := hi ++ lo

/-- The high byte of a word, which lies at the lower address (R63). -/
def highByte (w : Word) : Byte := w.extractLsb' 8 8

/-- The low byte of a word, which lies at the higher address (R63). -/
def lowByte (w : Word) : Byte := w.extractLsb' 0 8

/-- Why a list of bytes holds no instruction. -/
inductive DecodeError where
  /-- Fewer than the two bytes of an instruction are left (R90). -/
  | truncated
  deriving DecidableEq, Repr

/-- Decode the instruction at the head of a list of bytes, and give the bytes after it (R90). -/
def decodeBytes : List Byte → Except DecodeError (Instr × List Byte)
  | hi :: lo :: rest => .ok (decode (wordOfBytes hi lo), rest)
  | [_] => .error .truncated
  | [] => .error .truncated

/-- The word of an instruction (R91, R99, R100): the row's fixed bits around its fields. -/
def encode : Instr → Word
  | .sys nnn => 0x0#4 ++ nnn
  | .cls => 0x00E0#16
  | .ret => 0x00EE#16
  | .jp nnn => 0x1#4 ++ nnn
  | .call nnn => 0x2#4 ++ nnn
  | .seImm x nn => 0x3#4 ++ x ++ nn
  | .sneImm x nn => 0x4#4 ++ x ++ nn
  | .seReg x y n => 0x5#4 ++ x ++ y ++ n
  | .ldImm x nn => 0x6#4 ++ x ++ nn
  | .addImm x nn => 0x7#4 ++ x ++ nn
  | .ldReg x y => 0x8#4 ++ x ++ y ++ 0x0#4
  | .orReg x y => 0x8#4 ++ x ++ y ++ 0x1#4
  | .andReg x y => 0x8#4 ++ x ++ y ++ 0x2#4
  | .xorReg x y => 0x8#4 ++ x ++ y ++ 0x3#4
  | .addReg x y => 0x8#4 ++ x ++ y ++ 0x4#4
  | .subReg x y => 0x8#4 ++ x ++ y ++ 0x5#4
  | .shr x y => 0x8#4 ++ x ++ y ++ 0x6#4
  | .subnReg x y => 0x8#4 ++ x ++ y ++ 0x7#4
  | .shl x y => 0x8#4 ++ x ++ y ++ 0xE#4
  | .sneReg x y n => 0x9#4 ++ x ++ y ++ n
  | .ldI nnn => 0xA#4 ++ nnn
  | .jpV0 nnn => 0xB#4 ++ nnn
  | .rnd x nn => 0xC#4 ++ x ++ nn
  | .drw x y n => 0xD#4 ++ x ++ y ++ n
  | .skp x => 0xE#4 ++ x ++ 0x9E#8
  | .sknp x => 0xE#4 ++ x ++ 0xA1#8
  | .ldVxDt x => 0xF#4 ++ x ++ 0x07#8
  | .ldVxK x => 0xF#4 ++ x ++ 0x0A#8
  | .ldDtVx x => 0xF#4 ++ x ++ 0x15#8
  | .ldStVx x => 0xF#4 ++ x ++ 0x18#8
  | .addI x => 0xF#4 ++ x ++ 0x1E#8
  | .ldF x => 0xF#4 ++ x ++ 0x29#8
  | .ldB x => 0xF#4 ++ x ++ 0x33#8
  | .storeRegs x => 0xF#4 ++ x ++ 0x55#8
  | .loadRegs x => 0xF#4 ++ x ++ 0x65#8
  | .unmapped89 x y lo => 0x8#4 ++ x ++ y ++ 0x4#3 ++ lo
  | .unmappedAB x y lo => 0x8#4 ++ x ++ y ++ 0x5#3 ++ lo
  | .unmappedCD x y lo => 0x8#4 ++ x ++ y ++ 0x6#3 ++ lo
  | .unmapped8F x y => 0x8#4 ++ x ++ y ++ 0xF#4
  | .unmappedE x kk => 0xE#4 ++ x ++ kk
  | .unmappedF x kk => 0xF#4 ++ x ++ kk

/-- The mask of an instruction's row in the opcode map (R99, R100): the bits that must match. -/
def Instr.rowMask : Instr → Word
  | .sys _ => 0xF000#16
  | .cls => 0xFFFF#16
  | .ret => 0xFFFF#16
  | .jp _ => 0xF000#16
  | .call _ => 0xF000#16
  | .seImm _ _ => 0xF000#16
  | .sneImm _ _ => 0xF000#16
  | .seReg _ _ _ => 0xF000#16
  | .ldImm _ _ => 0xF000#16
  | .addImm _ _ => 0xF000#16
  | .ldReg _ _ => 0xF00F#16
  | .orReg _ _ => 0xF00F#16
  | .andReg _ _ => 0xF00F#16
  | .xorReg _ _ => 0xF00F#16
  | .addReg _ _ => 0xF00F#16
  | .subReg _ _ => 0xF00F#16
  | .shr _ _ => 0xF00F#16
  | .subnReg _ _ => 0xF00F#16
  | .shl _ _ => 0xF00F#16
  | .sneReg _ _ _ => 0xF000#16
  | .ldI _ => 0xF000#16
  | .jpV0 _ => 0xF000#16
  | .rnd _ _ => 0xF000#16
  | .drw _ _ _ => 0xF000#16
  | .skp _ => 0xF0FF#16
  | .sknp _ => 0xF0FF#16
  | .ldVxDt _ => 0xF0FF#16
  | .ldVxK _ => 0xF0FF#16
  | .ldDtVx _ => 0xF0FF#16
  | .ldStVx _ => 0xF0FF#16
  | .addI _ => 0xF0FF#16
  | .ldF _ => 0xF0FF#16
  | .ldB _ => 0xF0FF#16
  | .storeRegs _ => 0xF0FF#16
  | .loadRegs _ => 0xF0FF#16
  | .unmapped89 _ _ _ => 0xF00E#16
  | .unmappedAB _ _ _ => 0xF00E#16
  | .unmappedCD _ _ _ => 0xF00E#16
  | .unmapped8F _ _ => 0xF00F#16
  | .unmappedE _ _ => 0xF000#16
  | .unmappedF _ _ => 0xF000#16

/-- The match of an instruction's row in the opcode map (R99, R100). -/
def Instr.rowMatch : Instr → Word
  | .sys _ => 0x0000#16
  | .cls => 0x00E0#16
  | .ret => 0x00EE#16
  | .jp _ => 0x1000#16
  | .call _ => 0x2000#16
  | .seImm _ _ => 0x3000#16
  | .sneImm _ _ => 0x4000#16
  | .seReg _ _ _ => 0x5000#16
  | .ldImm _ _ => 0x6000#16
  | .addImm _ _ => 0x7000#16
  | .ldReg _ _ => 0x8000#16
  | .orReg _ _ => 0x8001#16
  | .andReg _ _ => 0x8002#16
  | .xorReg _ _ => 0x8003#16
  | .addReg _ _ => 0x8004#16
  | .subReg _ _ => 0x8005#16
  | .shr _ _ => 0x8006#16
  | .subnReg _ _ => 0x8007#16
  | .shl _ _ => 0x800E#16
  | .sneReg _ _ _ => 0x9000#16
  | .ldI _ => 0xA000#16
  | .jpV0 _ => 0xB000#16
  | .rnd _ _ => 0xC000#16
  | .drw _ _ _ => 0xD000#16
  | .skp _ => 0xE09E#16
  | .sknp _ => 0xE0A1#16
  | .ldVxDt _ => 0xF007#16
  | .ldVxK _ => 0xF00A#16
  | .ldDtVx _ => 0xF015#16
  | .ldStVx _ => 0xF018#16
  | .addI _ => 0xF01E#16
  | .ldF _ => 0xF029#16
  | .ldB _ => 0xF033#16
  | .storeRegs _ => 0xF055#16
  | .loadRegs _ => 0xF065#16
  | .unmapped89 _ _ _ => 0x8008#16
  | .unmappedAB _ _ _ => 0x800A#16
  | .unmappedCD _ _ _ => 0x800C#16
  | .unmapped8F _ _ => 0x800F#16
  | .unmappedE _ _ => 0xE000#16
  | .unmappedF _ _ => 0xF000#16

/-- The word whose bits the opcode table numbers as `w`, `nbits` of them given: the bits above are 0. -/
def tableWord (nbits w : Nat) : Word := BitVec.ofNat 16 (w % 2 ^ nbits)

/-- The instruction the decoder reads from a row of the opcode table, its word laid out as memory holds it, the high
byte first. No row is longer than the 16 bits of an instruction (R90). -/
def decodeTableWord (nbits w : Nat) : Option Instr :=
  if 16 < nbits then none
  else
    match decodeBytes [highByte (tableWord nbits w), lowByte (tableWord nbits w)] with
    | .ok (i, _) => some i
    | .error _ => none

end Sys2Proof
end

