-- ==== Sys2Proof/Config.lean ====
section
/-! DEFINITION. What an implementation fixes: the open parameters of spec 00_scope.md R9, as one plain record, and the
random-number oracle, a free value with no body. The defaults of R9 stand in Machine/Defaults.lean. -/

namespace Sys2Proof

/-- `UNMAPPED_POLICY` (R9, R100, D1): what an unmapped word does. -/
inductive UnmappedPolicy where
  | nop
  | fault
  deriving DecidableEq, Repr

/-- `SHL_VF_MODE` (R9, R199, D3): the flag of 8XYE. -/
inductive ShlVfMode where
  | msb
  | referenceZero
  deriving DecidableEq, Repr

/-- `VF_WRITE_ORDER` (R9, R190, D5): which of result and flag is written last. -/
inductive VfWriteOrder where
  | flagThenResult
  | resultThenFlag
  deriving DecidableEq, Repr

/-- `FONT_DIGIT_MODE` (R9, R222, D13): whether FX29 masks its operand to a digit. -/
inductive FontDigitMode where
  | unmasked
  | masked
  deriving DecidableEq, Repr

/-- `FONT` (R9, R33, D14): the 80 glyph bytes of the reset memory. -/
abbrev Font := Vector Byte 80

/-- The open parameters the model takes as arguments (R9). A state carries them in its field `cfg`, which no operation
changes, so that a claim about every state is a claim for every value of the parameters (log entry 1). -/
structure Config where
  unmappedPolicy : UnmappedPolicy
  shlVfMode : ShlVfMode
  vfWriteOrder : VfWriteOrder
  fontDigitMode : FontDigitMode
  font : Font
  deriving DecidableEq, Repr

/-- `RNG` (R9, R173, D15): the byte the oracle answers at the k-th draw. A FREE VALUE: it has no body, so nothing can
be proved of one byte that does not hold of every oracle. DESIGN CHOICE, unsafe: the byte depends on the number of the
draw alone, so that two runs from states with equal `draws` draw the same bytes, which 91_not_in_source.md N3 says not
to assume (log entry 2). -/
opaque Config.rngByte : Nat → Byte

end Sys2Proof
end

