-- ==== Sys2Proof/Machine/Defaults.lean ====
section
/-! DEFINITION. The constants of the reset state: the defaults of the open parameters (spec 00_scope.md R9, 10_state.md
R33) and the values of 70_reset_and_hazards.md R340. -/

namespace Sys2Proof.Machine

/-- The default of `FONT`, digit by digit (R33). -/
def defaultFont : Font :=
  #v[0xF0#8, 0x90#8, 0x90#8, 0x90#8, 0xF0#8,
     0x20#8, 0x60#8, 0x20#8, 0x20#8, 0x70#8,
     0xF0#8, 0x10#8, 0xF0#8, 0x80#8, 0xF0#8,
     0xF0#8, 0x10#8, 0xF0#8, 0x10#8, 0xF0#8,
     0x90#8, 0x90#8, 0xF0#8, 0x10#8, 0x10#8,
     0xF0#8, 0x80#8, 0xF0#8, 0x10#8, 0xF0#8,
     0xF0#8, 0x80#8, 0xF0#8, 0x90#8, 0xF0#8,
     0xF0#8, 0x10#8, 0x20#8, 0x40#8, 0x40#8,
     0xF0#8, 0x90#8, 0xF0#8, 0x90#8, 0xF0#8,
     0xF0#8, 0x90#8, 0xF0#8, 0x10#8, 0xF0#8,
     0xF0#8, 0x90#8, 0xF0#8, 0x90#8, 0x90#8,
     0xE0#8, 0x90#8, 0xE0#8, 0x90#8, 0xE0#8,
     0xF0#8, 0x80#8, 0x80#8, 0x80#8, 0xF0#8,
     0xE0#8, 0x90#8, 0x90#8, 0x90#8, 0xE0#8,
     0xF0#8, 0x80#8, 0xF0#8, 0x80#8, 0xF0#8,
     0xF0#8, 0x80#8, 0xF0#8, 0x80#8, 0x80#8]

/-- The defaults of the open parameters (R9). -/
def defaultConfig : Config where
  unmappedPolicy := .nop
  shlVfMode := .msb
  vfWriteOrder := .flagThenResult
  fontDigitMode := .unmasked
  font := defaultFont

/-- The highest address of memory (R8, R60). -/
def memTop : Nat := 0xFFF

/-- The program-start offset: the reset pc and the loader's base (R8, R67, R340). -/
def programStart : Nat := 0x200

/-- The reset value of `redraw` (R29, R340, D21). -/
def resetRedraw : Bool := true

/-- The reset value of `run` (R32, R340, D21). -/
def resetRun : Bool := true

/-- The reset value of `opcode` (R31, R340, D21). -/
def resetOpcode : Word := 0#16

/-- The reset value of `V0` to `VF` (R21, R340). -/
def resetReg : Byte := 0#8

/-- The reset value of every stack entry (R25, R340, D21). -/
def resetStackEntry : Word := 0#16

/-- The reset value of every pixel (R28, R340). -/
def resetPixel : Byte := 0#8

/-- The reset value of `DT` and `ST` (R26, R27, R340). -/
def resetTimer : Byte := 0#8

/-- The reset value of `I` (R23, R340). -/
def resetI : Word := 0#16

end Sys2Proof.Machine
end

