-- ==== Sys2Proof/Machine/State.lean ====
section
/-! DEFINITION. The machine state, plain data, holding every field of spec 10_state.md R20, the ways a step can stop,
and the state after reset (70_reset_and_hazards.md R340). -/

namespace Sys2Proof.Machine

/-- The conditions the spec calls faults, with the information R301 records beside pc and opcode. -/
inductive FaultReason where
  /-- Code 1, raised by fetch when pc > 0xFFE (R122). -/
  | pcOutOfRange (pc : Word)
  /-- Code 2, raised by 2NNN at sp = 16 (R142). -/
  | stackOverflow
  /-- Code 3, raised by 00EE at sp = 0 (R140). -/
  | stackUnderflow
  /-- Code 4, raised by DXYN, FX33, FX55, FX65: the lowest accessed address above 0xFFF (R62). -/
  | memOutOfRange (addr : Nat)
  /-- Code 5, raised by EX9E and EXA1: the key value above 15 (R240, R241). -/
  | keyOutOfRange (k : Byte)
  /-- Code 6, raised by an unmapped word under `UNMAPPED_POLICY = fault` (R127). -/
  | unknownOpcode (opcode : Word)
  deriving DecidableEq, Repr

/-- The fault record: the reason, and the pc and opcode of the faulting step (R34, R300). -/
structure FaultRecord where
  reason : FaultReason
  pc : Word
  opcode : Word
  deriving DecidableEq, Repr

/-- How a step can stop in this model. A condition of R301 does NOT stop the step that meets it: that step answers the
next state, with the record written (R300). -/
inductive Fault where
  /-- Raised by `step` alone, when the state already holds a fault record: the core has no step until the host calls
  `initialize` or `reset` (R129, R305). SAFE: the spec defines no step here. -/
  | stopped (record : FaultRecord)
  deriving DecidableEq, Repr

/-- Why an instruction has no meaning. No meaning of this model answers with a refusal. -/
inductive Refusal where
  /-- Raised by an arm of `exec` that has no meaning yet; no arm is one. SAFE. -/
  | notModelled (mnemonic : String)
  deriving DecidableEq, Repr

/-- Memory: the bytes that differ from their reset contents, by address (Machine/Ops.lean gives the form and reads). -/
abbrev Memory := List Host.Cell

/-- The framebuffer `fb[y][x]`, 32 rows of 64 pixels, each a byte (R28). -/
abbrev Framebuffer := Vector (Vector Byte 64) 32

/-- The machine state (R20). The last two fields are the model's own. -/
structure State where
  /-- The 4096 bytes of memory (R60). -/
  mem : Memory
  /-- The general registers V0 to VF; VF is also the flag (R21, R22). -/
  v : Vector Byte 16
  /-- The index register I (R23). -/
  i : Word
  /-- The program counter (R24). -/
  pc : Word
  /-- The call stack's entries (R25). -/
  stack : Vector Word 16
  /-- The number of stack entries in use, 0 to 16 (R25). -/
  sp : Fin 17
  /-- The delay timer DT (R26). -/
  dt : Byte
  /-- The sound timer ST (R27). -/
  st : Byte
  /-- The framebuffer (R28). -/
  fb : Framebuffer
  /-- The redraw flag (R29). -/
  redraw : Bool
  /-- The keypad, true meaning pressed (R30). -/
  key : Vector Bool 16
  /-- The current opcode (R31). -/
  opcode : Word
  /-- The run flag (R32). -/
  run : Bool
  /-- The fault record (R34). -/
  fault : Option FaultRecord
  /-- The open parameters the model takes as arguments (R9); no operation changes it (log entry 1). -/
  cfg : Config
  /-- How many bytes the RNG oracle has answered (log entry 2). -/
  draws : Nat
  deriving DecidableEq, Repr

/-- What an instruction or a step answers. -/
abbrev Result := Host.Outcome State Fault Refusal

/-- The machine after the cold start of R340, under the default parameters of R9: memory lists nothing, so every byte
reads as its reset contents. -/
def State.reset : State where
  mem := []
  v := Vector.replicate 16 resetReg
  i := resetI
  pc := BitVec.ofNat 16 programStart
  stack := Vector.replicate 16 resetStackEntry
  sp := 0
  dt := resetTimer
  st := resetTimer
  fb := Vector.replicate 32 (Vector.replicate 64 resetPixel)
  redraw := resetRedraw
  key := Vector.replicate 16 false
  opcode := resetOpcode
  run := resetRun
  fault := none
  cfg := defaultConfig
  draws := 0

end Sys2Proof.Machine
end

