-- ==== Sys2Proof/Machine/Ops.lean ====
section
/-! DEFINITION. The named operations over memory, registers, pc, stack and framebuffer, fetching, and taking a fault
(spec 10_state.md, 20_memory.md, 40_fetch_dispatch.md R121 to R125, 60_exceptions.md R300). -/

namespace Sys2Proof.Machine

/-! Memory (R60, R62, R67) -/

/-- What an address reads as that no cell lists: its reset contents, the font at 0x000..0x04F and 0 above (R67, R340). -/
def Memory.unlisted (font : Font) (a : Nat) : Byte := if h : a < 80 then font[a] else 0#8

/-- The byte at an address. -/
def Memory.read (font : Font) : Memory → Nat → Byte
  | [], a => Memory.unlisted font a
  | (b, y) :: m, a => if a = b then y else Memory.read font m a

/-- The cells without those of one address. -/
def Memory.drop (m : Memory) (a : Nat) : Memory := m.filter fun cell => decide (cell.1 ≠ a)

/-- The cells with one more cell, before the first of a higher address. -/
def Memory.place (a : Nat) (x : Byte) : Memory → Memory
  | [] => [(a, x)]
  | (b, y) :: m => if a < b then (a, x) :: (b, y) :: m else (b, y) :: Memory.place a x m

/-- Write one byte: the cells stay sorted, and a byte equal to its reset contents is listed no more. -/
def Memory.write (font : Font) (m : Memory) (a : Nat) (x : Byte) : Memory :=
  if x = Memory.unlisted font a then Memory.drop m a else Memory.place a x (Memory.drop m a)

/-- The canonical form from address `lo` on: addresses rise, none lies above 0xFFF, and no cell lists its reset
contents. -/
def Memory.wfFrom (font : Font) : Nat → Memory → Bool
  | _, [] => true
  | lo, (b, y) :: m =>
    decide (lo ≤ b) && decide (b ≤ memTop) && (y != Memory.unlisted font b) && Memory.wfFrom font (b + 1) m

/-- The canonical form of a memory. -/
def Memory.wf (font : Font) (m : Memory) : Bool := Memory.wfFrom font 0 m

/-- The byte at an address of the machine's memory: `mem[a]` of R62. -/
def State.byteAt (s : State) (a : Nat) : Byte := Memory.read s.cfg.font s.mem a

/-- `mem[a] <- x` of R62. An address above 0xFFF holds nothing: every caller has checked, with `memFault`, that it
writes none (log entry 9). -/
def State.setByte (s : State) (a : Nat) (x : Byte) : State :=
  if a ≤ memTop then { s with mem := Memory.write s.cfg.font s.mem a x } else s

/-- `n` bytes from `a` up, the lowest address first. -/
def State.bytesAt (s : State) (a n : Nat) : List Byte := (List.range n).map fun k => s.byteAt (a + k)

/-- Write a list of bytes from `a` up, the lowest address first. -/
def State.setBytes (s : State) (a : Nat) : List Byte → State
  | [] => s
  | x :: xs => (s.setByte a x).setBytes (a + 1) xs

/-- The check every access of `n` bytes from `a` makes before its first read or write (R62, D8): MemOutOfRange with
the lowest address above 0xFFF (R301) when one is touched. Addresses are unbounded integers, not wrapped (R62). -/
def memFault (a n : Nat) : Option FaultReason :=
  if 0 < n ∧ memTop < a + n - 1 then some (.memOutOfRange (max a (memTop + 1))) else none

/-! Registers and pc (R21 to R24, R125) -/

/-- `V[x]` (R21). -/
def State.reg (s : State) (x : Nibble) : Byte := s.v[x.toNat]'x.isLt

/-- `V[x] <- b` (R21). -/
def State.setReg (s : State) (x : Nibble) (b : Byte) : State := { s with v := s.v.set x.toNat b x.isLt }

/-- The index of VF, the flag register (R22). -/
def vf : Nibble := 0xF#4

/-- `I <- w` (R23). -/
def State.setI (s : State) (w : Word) : State := { s with i := w }

/-- `pc <- w`: a jump (R125, class absolute). -/
def State.jump (s : State) (w : Word) : State := { s with pc := w }

/-- `pc <- pc + 2` (R125, class sequential). -/
def State.advance (s : State) : State := s.jump (s.pc + 2#16)

/-- `pc <- pc + 4` if the condition holds, else `pc + 2` (R125, class skip). -/
def State.skipIf (s : State) (c : Bool) : State := if c then s.jump (s.pc + 4#16) else s.advance

/-! Timers (R26, R27) -/

/-- `DT <- b` (R26). -/
def State.setDT (s : State) (b : Byte) : State := { s with dt := b }

/-- `ST <- b` (R27). -/
def State.setST (s : State) (b : Byte) : State := { s with st := b }

/-! The call stack (R25) -/

/-- Push a return address, or `none` when all 16 entries are in use (R25, R142). -/
def State.push (s : State) (w : Word) : Option State :=
  if h : s.sp.val < 16 then
    some { s with stack := s.stack.set s.sp.val w h, sp := ⟨s.sp.val + 1, Nat.succ_lt_succ h⟩ }
  else none

/-- Pop the newest return address, or `none` when the stack is empty; the entry itself stays (R25, R140). -/
def State.pop (s : State) : Option (Word × State) :=
  match s.sp with
  | ⟨0, _⟩ => none
  | ⟨k + 1, h⟩ => some (s.stack[k]'(Nat.lt_of_succ_lt_succ h), { s with sp := ⟨k, Nat.lt_of_succ_lt h⟩ })

/-! The framebuffer (R28) -/

/-- `fb[y][x]` (R28). -/
def Framebuffer.pixel (fb : Framebuffer) (y : Fin 32) (x : Fin 64) : Byte := fb[y][x]

/-- `fb[y][x] <- b` (R28). -/
def Framebuffer.setPixel (fb : Framebuffer) (y : Fin 32) (x : Fin 64) (b : Byte) : Framebuffer :=
  fb.set y (fb[y].set x b)

/-- The framebuffer with every pixel 0 (R220). -/
def Framebuffer.clear : Framebuffer := Vector.replicate 32 (Vector.replicate 64 0#8)

/-- Every pixel holds 0 or 1 (R28). -/
def Framebuffer.wf (fb : Framebuffer) : Bool := fb.all fun row => row.all fun p => p == 0#8 || p == 1#8

/-- `fb[y][x]` of a state. -/
def State.pixel (s : State) (y : Fin 32) (x : Fin 64) : Byte := Framebuffer.pixel s.fb y x

/-- Show a framebuffer changed by a clear or a draw: the redraw flag is set (R29). -/
def State.show (s : State) (fb : Framebuffer) : State := { s with fb := fb, redraw := true }

/-! The random-number oracle (R173, D15) -/

/-- `draw_rng()`: the oracle's next byte, and the state that has drawn it. DESIGN CHOICE, unsafe for a claim that
compares two runs: the byte is a function of the draw count alone, so two states with equal `draws` (any two runs from
State.reset) draw equal bytes, where the spec says not to assume "that two runs draw the same bytes"
(91_not_in_source.md N3; log entry 2). -/
def State.drawRng (s : State) : Byte × State := (Config.rngByte s.draws, { s with draws := s.draws + 1 })

/-! Taking a fault (R300, R304) -/

/-- `raise Fault(reason)`: record the reason with the pc and opcode of the faulting instruction, and change nothing
else (R300, R304). There is no vector, no mode and no return from a fault (R304, R305). -/
def State.raise (s : State) (r : FaultReason) : State := { s with fault := some ⟨r, s.pc, s.opcode⟩ }

/-- Answer `t` if no fault was found, else take the fault in `s`. -/
def State.guard (s : State) (f : Option FaultReason) (t : State) : Result :=
  match f with
  | none => .next t
  | some r => .next (s.raise r)

/-- The code of a fault (R301). -/
def FaultReason.code : FaultReason → Nat
  | .pcOutOfRange _ => 1
  | .stackOverflow => 2
  | .stackUnderflow => 3
  | .memOutOfRange _ => 4
  | .keyOutOfRange _ => 5
  | .unknownOpcode _ => 6

/-! The step's own parts (R120 to R123, R300) -/

/-- Fetch: the word at pc and pc + 1, big-endian, or `none` when pc > 0xFFE (R121, R122). It does not advance pc. -/
def State.fetch (s : State) : Option Word :=
  if s.pc.toNat + 1 ≤ memTop then some (wordOfBytes (s.byteAt s.pc.toNat) (s.byteAt (s.pc.toNat + 1))) else none

/-- `opcode <- w`, before the instruction is dispatched (R123). -/
def State.setOpcode (s : State) (w : Word) : State := { s with opcode := w }

/-- The end of a step that began in `s`: a faulting step leaves the state BEFORE THE STEP with the fault record set,
so that also `opcode` is what it was (R300, log entry 4). -/
def State.commit (s : State) : Result → Result
  | .next t =>
    match t.fault with
    | none => .next t
    | some r => .next { s with fault := some r }
  | .fault f => .fault f
  | .refused r => .refused r

end Sys2Proof.Machine
end

