-- ==== Sys2Proof/Machine/Flags.lean ====
section
/-! DEFINITION. Every flag the spec computes, VF being the only flag register (spec 10_state.md R22), and the one
procedure that writes a result and a flag (43_alu.md R190). The draw collision is computed with the pixels, in
Machine/Display.lean. -/

namespace Sys2Proof.Machine

/-- A flag as VF holds it: 1 or 0. -/
def flagByte (b : Bool) : Byte := if b then 1#8 else 0#8

/-- Carry of the 9-bit sum (R195). -/
def carryFlag (a b : Byte) : Byte := flagByte (decide (255 < a.toNat + b.toNat))

/-- No borrow of `a - b`: a >= b (R196, R198, C1). -/
def noBorrowFlag (a b : Byte) : Byte := flagByte (decide (b.toNat ≤ a.toNat))

/-- The bit a right shift moves out (R197). -/
def shrFlag (a : Byte) : Byte := a &&& 1#8

/-- The flag of a left shift under `SHL_VF_MODE` (R199, D3). -/
def shlFlag (mode : ShlVfMode) (a : Byte) : Byte :=
  match mode with
  | .msb => (a >>> 7) &&& 1#8
  | .referenceZero => 0#8

/-- `write_rf(x, result, flag)`: the last of the two writes wins when x = F (R190, D5). -/
def State.writeRF (s : State) (x : Nibble) (result flag : Byte) : State :=
  match s.cfg.vfWriteOrder with
  | .flagThenResult => (s.setReg vf flag).setReg x result
  | .resultThenFlag => (s.setReg x result).setReg vf flag

end Sys2Proof.Machine
end

