-- ==== Sys2Proof/Machine/Alu.lean ====
section
/-! DEFINITION. Register-register arithmetic and logic (spec 43_alu.md R190 to R199). Operands are read from the state
at the start of the step, also VF (R11, D5). -/

namespace Sys2Proof.Machine

/-- LD Vx, Vy (R191). -/
def execLdReg (x y : Nibble) (s : State) : Result := .next (s.setReg x (s.reg y)).advance

/-- OR Vx, Vy: VF is not reset (R192, D6). -/
def execOrReg (x y : Nibble) (s : State) : Result := .next (s.setReg x (s.reg x ||| s.reg y)).advance

/-- AND Vx, Vy: VF is not reset (R193, D6). -/
def execAndReg (x y : Nibble) (s : State) : Result := .next (s.setReg x (s.reg x &&& s.reg y)).advance

/-- XOR Vx, Vy: VF is not reset (R194, D6). -/
def execXorReg (x y : Nibble) (s : State) : Result := .next (s.setReg x (s.reg x ^^^ s.reg y)).advance

/-- ADD Vx, Vy (R195). -/
def execAddReg (x y : Nibble) (s : State) : Result :=
  .next (s.writeRF x (s.reg x + s.reg y) (carryFlag (s.reg x) (s.reg y))).advance

/-- SUB Vx, Vy (R196). -/
def execSubReg (x y : Nibble) (s : State) : Result :=
  .next (s.writeRF x (s.reg x - s.reg y) (noBorrowFlag (s.reg x) (s.reg y))).advance

/-- SHR Vx: Vx is shifted in place (R197, D4). -/
def execShr (x : Nibble) (s : State) : Result :=
  .next (s.writeRF x (s.reg x >>> 1) (shrFlag (s.reg x))).advance

/-- SUBN Vx, Vy (R198). -/
def execSubnReg (x y : Nibble) (s : State) : Result :=
  .next (s.writeRF x (s.reg y - s.reg x) (noBorrowFlag (s.reg y) (s.reg x))).advance

/-- SHL Vx: Vx is shifted in place (R199, D4). -/
def execShl (x : Nibble) (s : State) : Result :=
  .next (s.writeRF x (s.reg x <<< 1) (shlFlag s.cfg.shlVfMode (s.reg x))).advance

end Sys2Proof.Machine
end

