-- ==== Sys2Proof/Machine/Operands.lean ====
section
/-! DEFINITION. The operand forms (spec 30_encoding.md R92): registers and immediates as they stand, the zero-extended
address, the I-relative address, the computed jump target, the font address and the key index. -/

namespace Sys2Proof.Machine

/-- `zext_16(nnn)` (R92). -/
def zextAddr (nnn : Addr) : Word := nnn.setWidth 16

/-- `zext_16(b)` of a byte (R11). -/
def zextByte (b : Byte) : Word := b.setWidth 16

/-- The I-relative address `I + k` with k = 0, an unbounded integer (R62, R92). -/
def State.base (s : State) : Nat := s.i.toNat

/-- The target `nnn + V0` of BNNN, a sum of 16 bits that is not masked to 12 (R147, D9). -/
def State.jumpTarget (s : State) (nnn : Addr) : Word := zextAddr nnn + zextByte (s.reg 0#4)

/-- The address of a font glyph (R222, D13). -/
def State.glyph (s : State) (x : Nibble) : Word :=
  match s.cfg.fontDigitMode with
  | .unmasked => zextByte (s.reg x) * 5#16
  | .masked => zextByte (s.reg x &&& 0x0F#8) * 5#16

/-- The state of the key whose index is `k`, or `none` when k > 15 (R240, R241, D12). -/
def State.keyAt (s : State) (k : Byte) : Option Bool := if h : k.toNat < 16 then some s.key[k.toNat] else none

/-- The least index, not below `lo`, of a pressed key among the next `n`. -/
def State.pressedFrom (s : State) (lo : Nat) : Nat → Option Nat
  | 0 => none
  | n + 1 => if s.key[lo]? = some true then some lo else s.pressedFrom (lo + 1) n

/-- The least index of a pressed key (R242). -/
def State.lowestPressed (s : State) : Option Nat := s.pressedFrom 0 16

/-- The first `n` registers from V0, in order (R272). -/
def State.regsList (s : State) (n : Nat) : List Byte := s.v.toList.take n

/-- `V[k] <- byte at a + k` for each k below `n`, in order (R273). -/
def State.loadFrom (s : State) (a : Nat) : Nat → State
  | 0 => s
  | k + 1 => (s.loadFrom a k).setReg (BitVec.ofNat 4 k) (s.byteAt (a + k))

end Sys2Proof.Machine
end

