-- ==== Sys2Proof/Machine/Control.lean ====
section
/-! DEFINITION. Control transfer and skips (spec 41_control_flow.md R140 to R147). A target is not checked when it is
set, only when it is fetched (R122). -/

namespace Sys2Proof.Machine

/-- RET: pop, then add 2 (R140). -/
def execRet (s : State) : Result :=
  match s.pop with
  | none => .next (s.raise .stackUnderflow)
  | some (w, t) => .next (t.jump (w + 2#16))

/-- JP nnn (R141). -/
def execJp (nnn : Addr) (s : State) : Result := .next (s.jump (zextAddr nnn))

/-- CALL nnn: push the address of this CALL (R142). -/
def execCall (nnn : Addr) (s : State) : Result :=
  match s.push s.pc with
  | none => .next (s.raise .stackOverflow)
  | some t => .next (t.jump (zextAddr nnn))

/-- SE Vx, nn (R143). -/
def execSeImm (x : Nibble) (nn : Byte) (s : State) : Result := .next (s.skipIf (s.reg x == nn))

/-- SNE Vx, nn (R144). -/
def execSneImm (x : Nibble) (nn : Byte) (s : State) : Result := .next (s.skipIf (s.reg x != nn))

/-- SE Vx, Vy (R145). -/
def execSeReg (x y : Nibble) (s : State) : Result := .next (s.skipIf (s.reg x == s.reg y))

/-- SNE Vx, Vy (R146). -/
def execSneReg (x y : Nibble) (s : State) : Result := .next (s.skipIf (s.reg x != s.reg y))

/-- JP V0, nnn (R147). -/
def execJpV0 (nnn : Addr) (s : State) : Result := .next (s.jump (s.jumpTarget nnn))

end Sys2Proof.Machine
end

