-- ==== Sys2Proof/Machine/Dispatching.lean ====
section
/-! DEFINITION. SYS and the six rows of unmapped words (spec 40_fetch_dispatch.md R126, R127). -/

namespace Sys2Proof.Machine

/-- SYS nnn: a no-op, whatever `nnn` (R126). -/
def execSys (_nnn : Addr) (s : State) : Result := .next s.advance

/-- An unmapped word: a no-op or UnknownOpcode, by `UNMAPPED_POLICY` (R127, D1). -/
def State.unmapped (s : State) : Result :=
  match s.cfg.unmappedPolicy with
  | .nop => .next s.advance
  | .fault => .next (s.raise (.unknownOpcode s.opcode))

/-- 8XY8 and 8XY9 (R100, R127). -/
def execUnmapped89 (_x _y : Nibble) (_lo : BitVec 1) (s : State) : Result := s.unmapped

/-- 8XYA and 8XYB (R100, R127). -/
def execUnmappedAB (_x _y : Nibble) (_lo : BitVec 1) (s : State) : Result := s.unmapped

/-- 8XYC and 8XYD (R100, R127). -/
def execUnmappedCD (_x _y : Nibble) (_lo : BitVec 1) (s : State) : Result := s.unmapped

/-- 8XYF (R100, R127). -/
def execUnmapped8F (_x _y : Nibble) (s : State) : Result := s.unmapped

/-- EXkk, kk neither 9E nor A1 (R100, R127). -/
def execUnmappedE (_x : Nibble) (_kk : Byte) (s : State) : Result := s.unmapped

/-- FXkk, kk none of the nine of R97 (R100, R127). -/
def execUnmappedF (_x : Nibble) (_kk : Byte) (s : State) : Result := s.unmapped

end Sys2Proof.Machine
end

