-- ==== Sys2Proof/Machine/Display.lean ====
section
/-! DEFINITION. Display instructions (spec 44_display.md R220 to R222). -/

namespace Sys2Proof.Machine

/-- CLS: every pixel 0, redraw set (R220). -/
def execCls (s : State) : Result := .next (s.show Framebuffer.clear).advance

/-- A framebuffer under a draw, with the collision found so far (R221). -/
structure Drawing where
  fb : Framebuffer
  collision : Bool
  deriving DecidableEq, Repr

/-- A column, wrapped modulo 64 (R221, D2). -/
def wrapX (n : Nat) : Fin 64 := ⟨n % 64, Nat.mod_lt _ (by decide)⟩

/-- A row, wrapped modulo 32 (R221, D2). -/
def wrapY (n : Nat) : Fin 32 := ⟨n % 32, Nat.mod_lt _ (by decide)⟩

/-- Bit `c` of a sprite byte from the left: bit 7 is the leftmost pixel (R221). -/
def spriteBit (b : Byte) (c : Nat) : Bool := (b >>> (7 - c)) &&& 1#8 == 1#8

/-- XOR one pixel with 1, and note a pixel that goes from set to unset (R221, C2). -/
def Drawing.flip (d : Drawing) (y : Fin 32) (x : Fin 64) : Drawing where
  fb := Framebuffer.setPixel d.fb y x (Framebuffer.pixel d.fb y x ^^^ 1#8)
  collision := d.collision || Framebuffer.pixel d.fb y x == 1#8

/-- The first `k` columns of one sprite row `b` whose left end is at column `xs`, row `y` (R221). -/
def Drawing.drawRow (d : Drawing) (xs : Nat) (y : Fin 32) (b : Byte) : Nat → Drawing
  | 0 => d
  | c + 1 =>
    if spriteBit b c then (d.drawRow xs y b c).flip y (wrapX (xs + c)) else d.drawRow xs y b c

/-- The rows of a sprite, the first at row `ys` (R221). -/
def Drawing.drawRows (d : Drawing) (xs ys : Nat) : List Byte → Drawing
  | [] => d
  | b :: bs => (d.drawRow xs (wrapY ys) b 8).drawRows xs (ys + 1) bs

/-- Draw `n` sprite rows read from I at (`V[x]`, `V[y]`), with no collision yet (R221). -/
def State.draw (s : State) (x y n : Nibble) : Drawing :=
  Drawing.drawRows ⟨s.fb, false⟩ (s.reg x).toNat (s.reg y).toNat (s.bytesAt s.base n.toNat)

/-- DRW Vx, Vy, n: VF is written after the pixels (R221). -/
def execDrw (x y n : Nibble) (s : State) : Result :=
  s.guard (memFault s.base n.toNat)
    ((s.show (s.draw x y n).fb).setReg vf (flagByte (s.draw x y n).collision)).advance

/-- LD F, Vx (R222). -/
def execLdF (x : Nibble) (s : State) : Result := .next (s.setI (s.glyph x)).advance

end Sys2Proof.Machine
end

