-- ==== Sys2Proof/Machine/Immediate.lean ====
section
/-! DEFINITION. Register loads with immediates (spec 42_register_immediate.md R170 to R173). -/

namespace Sys2Proof.Machine

/-- LD Vx, nn (R170). -/
def execLdImm (x : Nibble) (nn : Byte) (s : State) : Result := .next (s.setReg x nn).advance

/-- ADD Vx, nn: modulo 256, no flag (R171, D6). -/
def execAddImm (x : Nibble) (nn : Byte) (s : State) : Result := .next (s.setReg x (s.reg x + nn)).advance

/-- LD I, nnn (R172). -/
def execLdI (nnn : Addr) (s : State) : Result := .next (s.setI (zextAddr nnn)).advance

/-- RND Vx, nn: the oracle's byte AND nn (R173, D15). -/
def execRnd (x : Nibble) (nn : Byte) (s : State) : Result :=
  .next (s.drawRng.2.setReg x (s.drawRng.1 &&& nn)).advance

end Sys2Proof.Machine
end

