-- ==== Sys2Proof/Machine/Keypad.lean ====
section
/-! DEFINITION. Keypad instructions (spec 45_keypad.md R240 to R242). They read the keys the host last wrote (R318). -/

namespace Sys2Proof.Machine

/-- SKP Vx (R240). -/
def execSkp (x : Nibble) (s : State) : Result :=
  match s.keyAt (s.reg x) with
  | none => .next (s.raise (.keyOutOfRange (s.reg x)))
  | some down => .next (s.skipIf down)

/-- SKNP Vx (R241). -/
def execSknp (x : Nibble) (s : State) : Result :=
  match s.keyAt (s.reg x) with
  | none => .next (s.raise (.keyOutOfRange (s.reg x)))
  | some down => .next (s.skipIf (!down))

/-- LD Vx, K: while no key is pressed nothing changes, pc too (R242, R323). -/
def execLdVxK (x : Nibble) (s : State) : Result :=
  match s.lowestPressed with
  | none => .next s
  | some k => .next (s.setReg x (BitVec.ofNat 8 k)).advance

end Sys2Proof.Machine
end

