-- ==== Sys2Proof/Machine/MemBlock.lean ====
section
/-! DEFINITION. Index and memory-block instructions (spec 47_memory_block.md R270 to R273). Every address is checked
before the first write (D8), and I is not changed by an access. -/

namespace Sys2Proof.Machine

/-- ADD I, Vx: modulo 2^16, no flag (R270, D6, D7). -/
def execAddI (x : Nibble) (s : State) : Result := .next (s.setI (s.i + zextByte (s.reg x))).advance

/-- The decimal digits of a byte: hundreds, tens, ones (R271). -/
def bcdDigits (b : Byte) : List Byte :=
  [BitVec.ofNat 8 (b.toNat / 100), BitVec.ofNat 8 (b.toNat / 10 % 10), BitVec.ofNat 8 (b.toNat % 10)]

/-- LD B, Vx: the BCD store (R271). -/
def execLdB (x : Nibble) (s : State) : Result :=
  s.guard (memFault s.base 3) (s.setBytes s.base (bcdDigits (s.reg x))).advance

/-- LD [I], Vx: store V0 to Vx (R272). -/
def execStoreRegs (x : Nibble) (s : State) : Result :=
  s.guard (memFault s.base (x.toNat + 1)) (s.setBytes s.base (s.regsList (x.toNat + 1))).advance

/-- LD Vx, [I]: load V0 to Vx (R273). -/
def execLoadRegs (x : Nibble) (s : State) : Result :=
  s.guard (memFault s.base (x.toNat + 1)) (s.loadFrom s.base (x.toNat + 1)).advance

end Sys2Proof.Machine
end

