-- ==== Sys2Proof/Machine/Timers.lean ====
section
/-! DEFINITION. Timer instructions (spec 46_timers.md R260 to R262). A step never counts a timer down. -/

namespace Sys2Proof.Machine

/-- LD Vx, DT (R260). -/
def execLdVxDt (x : Nibble) (s : State) : Result := .next (s.setReg x s.dt).advance

/-- LD DT, Vx (R261). -/
def execLdDtVx (x : Nibble) (s : State) : Result := .next (s.setDT (s.reg x)).advance

/-- LD ST, Vx (R262). -/
def execLdStVx (x : Nibble) (s : State) : Result := .next (s.setST (s.reg x)).advance

end Sys2Proof.Machine
end

