-- ==== Sys2Proof/Machine/Step.lean ====
section
/-! DEFINITION. One step of the core (spec 40_fetch_dispatch.md R120 to R124, R129), and placing an instruction where
the next step fetches it. -/

namespace Sys2Proof.Machine

/-- Fetch, decode, execute. With a fault recorded the core has no step (R129); a pc beyond memory is a fault, recorded
with the opcode held before (R122, D24); a faulting instruction changes nothing else (R300). -/
def step (s : State) : Host.Outcome State Fault Refusal :=
  match s.fault with
  | some r => .fault (.stopped r)
  | none =>
    match s.fetch with
    | none => .next (s.raise (.pcOutOfRange s.pc))
    | some w => s.commit (exec (decode w) (s.setOpcode w))

/-- `s` with the instruction whose table bits are `w` stored at pc and pc + 1, the high byte first (R63, R121). -/
def State.withFetchWord (s : State) (nbits w : Nat) : State :=
  s.setBytes s.pc.toNat [highByte (tableWord nbits w), lowByte (tableWord nbits w)]

end Sys2Proof.Machine
end

