-- ==== Sys2Proof/Machine/HostOps.lean ====
section
/-! DEFINITION. The host's operations between core operations (spec 60_exceptions.md R310 to R319,
70_reset_and_hazards.md R340 to R344). No instruction executes one. -/

namespace Sys2Proof.Machine

/-- A timer counted down by one, clamped at 0 (R310). -/
def tickDown (b : Byte) : Byte := if b = 0#8 then 0#8 else b - 1#8

/-- `tickTimers`, also while a fault is recorded (R310, D18). -/
def State.tickTimers (s : State) : State := { s with dt := tickDown s.dt, st := tickDown s.st }

/-- `initialize`, the cold start: every field of R20 as R340 gives it; the parameters and the oracle go on (R340). -/
def State.coldStart (s : State) : State := { State.reset with cfg := s.cfg, draws := s.draws }

/-- `reset`, the warm restart: as the cold start, but the bytes from 0x200 up are kept. Below 0x200 nothing is listed
any more: the font and the zeroed gap (R341, R342, D20). -/
def State.warmReset (s : State) : State :=
  { s.coldStart with mem := s.mem.filter fun cell => decide (programStart ≤ cell.1) }

/-- The loader: write a ROM's bytes from 0x200 up. A ROM longer than the program region is turned away by the loader
and never reaches the core (R301, R316). -/
def State.loadRom (s : State) (rom : List Byte) : Option State :=
  if rom.length ≤ memTop + 1 - programStart then some (s.setBytes programStart rom) else none

/-- Input: the host writes all sixteen key states (R318). -/
def State.setKeys (s : State) (keys : Vector Bool 16) : State := { s with key := keys }

/-- Render: the renderer has read the framebuffer and clears the redraw flag (R317). -/
def State.rendered (s : State) : State := { s with redraw := false }

/-- Stop: the host clears the run flag to end its loop (R319). -/
def State.stop (s : State) : State := { s with run := false }

/-- The host's operations that change the state (R315). -/
inductive HostOp where
  /-- `initialize` (R340). -/
  | coldStart
  /-- `reset` (R341). -/
  | warmReset
  /-- load (R316). -/
  | load (rom : List Byte)
  /-- `tickTimers` (R310). -/
  | tick
  /-- input (R318). -/
  | input (keys : Vector Bool 16)
  /-- render (R317). -/
  | render
  /-- stop (R319). -/
  | stop
  deriving DecidableEq, Repr

/-- What a host operation makes of a state; `none` where the host has no such move (an overlong ROM). -/
def HostOp.apply : HostOp → State → Option State
  | .coldStart, s => some s.coldStart
  | .warmReset, s => some s.warmReset
  | .load rom, s => s.loadRom rom
  | .tick, s => some s.tickTimers
  | .input keys, s => some (s.setKeys keys)
  | .render, s => some s.rendered
  | .stop, s => some s.stop

end Sys2Proof.Machine
end

