-- ==== Sys2Proof/Machine/System.lean ====
section
/-! DEFINITION. The core and its host together: steps and host operations in any order (spec 60_exceptions.md R312). -/

namespace Sys2Proof.Machine

/-- What can happen next: one step of the core, or one operation of the host between steps (R312, R315). -/
inductive Event where
  | core
  | host (op : HostOp)
  deriving DecidableEq, Repr

/-- What an event makes of a state; `none` where the core has no step (R129) or the host has no such move. -/
def Event.apply : Event → State → Option State
  | .core, s =>
    match step s with
    | .next t => some t
    | .fault _ => none
    | .refused _ => none
  | .host op, s => op.apply s

/-- A run: the events in order, each from where the one before ended. -/
def runEvents : List Event → State → Option State
  | [], s => some s
  | e :: es, s =>
    match e.apply s with
    | none => none
    | some t => runEvents es t

end Sys2Proof.Machine
end

