-- ==== Sys2Proof/Safety.lean ====
section
/-! DEFINITION. The terms claims use: a run without fault, a finished program (spec 70_reset_and_hazards.md R351), the
invariant of the machine, and what "unchanged" means for each part of the state. -/

namespace Sys2Proof.Machine

/-- No fault is recorded (R34, R351). -/
abbrev State.safe (s : State) : Prop := s.fault = none

/-- The instruction at pc is a jump to pc itself, and no fault is recorded: the end of a program (R351). -/
abbrev State.finished (s : State) : Prop :=
  s.safe ∧ ∃ nnn : Addr, s.fetch = some (encode (.jp nnn)) ∧ nnn.toNat = s.pc.toNat

/-- What every step and every host operation keeps: memory in the model's own canonical form (log entry 8, DESIGN
CHOICE), every pixel 0 or 1 (R28), pc no higher than the highest sum BNNN forms (R24), every stack entry the address of a
fetched CALL (R122 and R142, decision D11), and a fault record that names the pc it was taken at (R300, decision D16). -/
structure State.Inv (s : State) : Prop where
  mem : Memory.wf s.cfg.font s.mem = true
  pixels : ∀ y x, s.pixel y x = 0#8 ∨ s.pixel y x = 1#8
  pc : s.pc.toNat ≤ 0x10FE
  stack : ∀ k : Fin 16, s.stack[k].toNat ≤ 0xFFE
  fault : ∀ r, s.fault = some r → r.pc = s.pc

/-! What "unchanged" means for each part of the state -/

/-- Every general register outside `ds` holds what it held. -/
def sameRegsBut (ds : List Nibble) (s t : State) : Prop := ∀ r : Nibble, r ∉ ds → t.reg r = s.reg r

/-- Every byte of memory outside the `n` bytes from `a` up reads as before. -/
def sameBytesBut (a n : Nat) (s t : State) : Prop := ∀ c : Nat, c < a ∨ a + n ≤ c → t.byteAt c = s.byteAt c

/-- Every byte of memory reads as before. -/
def sameBytes (s t : State) : Prop := ∀ c : Nat, t.byteAt c = s.byteAt c

/-- The call stack is as before, entries and pointer. -/
def sameStack (s t : State) : Prop := t.stack = s.stack ∧ t.sp = s.sp

/-- Both timers are as before. -/
def sameTimers (s t : State) : Prop := t.dt = s.dt ∧ t.st = s.st

/-- The display is as before, pixels and redraw flag. -/
def sameDisplay (s t : State) : Prop := t.fb = s.fb ∧ t.redraw = s.redraw

/-- What an instruction that meets no fault never writes is as before: keys, opcode, run flag, fault record and
parameters. -/
def sameControl (s t : State) : Prop :=
  t.key = s.key ∧ t.opcode = s.opcode ∧ t.run = s.run ∧ t.fault = s.fault ∧ t.cfg = s.cfg

/-- Everything but pc, and but the registers in `ds`, is as before. -/
def changesOnly (ds : List Nibble) (s t : State) : Prop :=
  sameRegsBut ds s t ∧ t.i = s.i ∧ sameBytes s t ∧ sameStack s t ∧ sameTimers s t ∧ sameDisplay s t ∧
    sameControl s t ∧ t.draws = s.draws

/-! What the spec says of every instruction at once -/

/-- An access of `n` bytes from I touches an address above 0xFFF (spec 60_exceptions.md R301, code 4). -/
def blockFault (s : State) (n : Nat) : Option FaultReason :=
  if 0 < n ∧ 0xFFF < s.i.toNat + n - 1 then some (.memOutOfRange (max s.i.toNat 0x1000)) else none

/-- The key index in Vx is above 15 (R301, code 5). -/
def keyFault (s : State) (x : Nibble) : Option FaultReason :=
  if 0xF < (s.reg x).toNat then some (.keyOutOfRange (s.reg x)) else none

/-- An unmapped word under `UNMAPPED_POLICY = fault` (R301, code 6). -/
def unmappedFault (s : State) : Option FaultReason :=
  if s.cfg.unmappedPolicy = .fault then some (.unknownOpcode s.opcode) else none

/-- The fault an instruction meets in a state, by the conditions of spec 60_exceptions.md R301. -/
def faultOf (i : Instr) (s : State) : Option FaultReason :=
  match i with
  | .sys _ => none
  | .cls => none
  | .ret => if s.sp.val = 0 then some .stackUnderflow else none
  | .jp _ => none
  | .call _ => if s.sp.val = 16 then some .stackOverflow else none
  | .seImm _ _ => none
  | .sneImm _ _ => none
  | .seReg _ _ _ => none
  | .ldImm _ _ => none
  | .addImm _ _ => none
  | .ldReg _ _ => none
  | .orReg _ _ => none
  | .andReg _ _ => none
  | .xorReg _ _ => none
  | .addReg _ _ => none
  | .subReg _ _ => none
  | .shr _ _ => none
  | .subnReg _ _ => none
  | .shl _ _ => none
  | .sneReg _ _ _ => none
  | .ldI _ => none
  | .jpV0 _ => none
  | .rnd _ _ => none
  | .drw _ _ n => blockFault s n.toNat
  | .skp x => keyFault s x
  | .sknp x => keyFault s x
  | .ldVxDt _ => none
  | .ldVxK _ => none
  | .ldDtVx _ => none
  | .ldStVx _ => none
  | .addI _ => none
  | .ldF _ => none
  | .ldB _ => blockFault s 3
  | .storeRegs x => blockFault s (x.toNat + 1)
  | .loadRegs x => blockFault s (x.toNat + 1)
  | .unmapped89 _ _ _ => unmappedFault s
  | .unmappedAB _ _ _ => unmappedFault s
  | .unmappedCD _ _ _ => unmappedFault s
  | .unmapped8F _ _ => unmappedFault s
  | .unmappedE _ _ => unmappedFault s
  | .unmappedF _ _ => unmappedFault s

/-- pc + 2 modulo 2^16 (spec 40_fetch_dispatch.md R125, class sequential). -/
def sequentialPc (s : State) : Nat := (s.pc.toNat + 2) % 65536

/-- pc + 4 if the condition holds, else pc + 2, modulo 2^16 (R125, class skip). -/
def skipPc (s : State) (c : Bool) : Nat := if c then (s.pc.toNat + 4) % 65536 else (s.pc.toNat + 2) % 65536

/-- The new pc of an instruction that meets no fault, by the classes of spec 40_fetch_dispatch.md R125. -/
def nextPcOf (i : Instr) (s : State) : Nat :=
  match i with
  | .sys _ => sequentialPc s
  | .cls => sequentialPc s
  | .ret => ((s.stack.toList.getD (s.sp.val - 1) 0#16).toNat + 2) % 65536
  | .jp nnn => nnn.toNat
  | .call nnn => nnn.toNat
  | .seImm x nn => skipPc s (decide (s.reg x = nn))
  | .sneImm x nn => skipPc s (decide (s.reg x ≠ nn))
  | .seReg x y _ => skipPc s (decide (s.reg x = s.reg y))
  | .ldImm _ _ => sequentialPc s
  | .addImm _ _ => sequentialPc s
  | .ldReg _ _ => sequentialPc s
  | .orReg _ _ => sequentialPc s
  | .andReg _ _ => sequentialPc s
  | .xorReg _ _ => sequentialPc s
  | .addReg _ _ => sequentialPc s
  | .subReg _ _ => sequentialPc s
  | .shr _ _ => sequentialPc s
  | .subnReg _ _ => sequentialPc s
  | .shl _ _ => sequentialPc s
  | .sneReg x y _ => skipPc s (decide (s.reg x ≠ s.reg y))
  | .ldI _ => sequentialPc s
  | .jpV0 nnn => nnn.toNat + (s.reg 0x0#4).toNat
  | .rnd _ _ => sequentialPc s
  | .drw _ _ _ => sequentialPc s
  | .skp x => skipPc s (decide (s.key.toList.getD (s.reg x).toNat false = true))
  | .sknp x => skipPc s (decide (s.key.toList.getD (s.reg x).toNat false = false))
  | .ldVxDt _ => sequentialPc s
  | .ldVxK _ => if ∀ k : Fin 16, s.key[k] = false then s.pc.toNat else sequentialPc s
  | .ldDtVx _ => sequentialPc s
  | .ldStVx _ => sequentialPc s
  | .addI _ => sequentialPc s
  | .ldF _ => sequentialPc s
  | .ldB _ => sequentialPc s
  | .storeRegs _ => sequentialPc s
  | .loadRegs _ => sequentialPc s
  | .unmapped89 _ _ _ => sequentialPc s
  | .unmappedAB _ _ _ => sequentialPc s
  | .unmappedCD _ _ _ => sequentialPc s
  | .unmapped8F _ _ => sequentialPc s
  | .unmappedE _ _ => sequentialPc s
  | .unmappedF _ _ => sequentialPc s

/-- The general registers an instruction may write, VF as a flag included (spec 10_state.md R22). -/
def destsOf (i : Instr) : List Nibble :=
  match i with
  | .sys _ => []
  | .cls => []
  | .ret => []
  | .jp _ => []
  | .call _ => []
  | .seImm _ _ => []
  | .sneImm _ _ => []
  | .seReg _ _ _ => []
  | .ldImm x _ => [x]
  | .addImm x _ => [x]
  | .ldReg x _ => [x]
  | .orReg x _ => [x]
  | .andReg x _ => [x]
  | .xorReg x _ => [x]
  | .addReg x _ => [x, vf]
  | .subReg x _ => [x, vf]
  | .shr x _ => [x, vf]
  | .subnReg x _ => [x, vf]
  | .shl x _ => [x, vf]
  | .sneReg _ _ _ => []
  | .ldI _ => []
  | .jpV0 _ => []
  | .rnd x _ => [x]
  | .drw _ _ _ => [vf]
  | .skp _ => []
  | .sknp _ => []
  | .ldVxDt x => [x]
  | .ldVxK x => [x]
  | .ldDtVx _ => []
  | .ldStVx _ => []
  | .addI _ => []
  | .ldF _ => []
  | .ldB _ => []
  | .storeRegs _ => []
  | .loadRegs x => (List.range (x.toNat + 1)).map (BitVec.ofNat 4)
  | .unmapped89 _ _ _ => []
  | .unmappedAB _ _ _ => []
  | .unmappedCD _ _ _ => []
  | .unmapped8F _ _ => []
  | .unmappedE _ _ => []
  | .unmappedF _ _ => []

/-- A set bit of the sprite DXYN draws lands on row `py`, column `px`: bit 7 of a sprite byte is its leftmost pixel, and
every pixel wraps (spec 44_display.md R221). -/
def State.spriteCovers (s : State) (x y n : Nibble) (py : Fin 32) (px : Fin 64) : Prop :=
  ∃ r < n.toNat, ∃ c < 8, (s.byteAt (s.i.toNat + r)).getLsbD (7 - c) = true ∧
    ((s.reg y).toNat + r) % 32 = py.val ∧ ((s.reg x).toNat + c) % 64 = px.val

end Sys2Proof.Machine
end

