-- ==== Sys2Proof/Certificates/Slice0/Obligations.lean ====
section
/-! DEFINITION. The statements for the provers. "Unchanged" is spelled by the predicates of Safety.lean: `changesOnly ds`
says that everything but pc, and but the registers in `ds`, is as before. Where a statement names the state a fault
leaves (R11, R300), that the model answers it as a next state is log entry 3 (DEDUCED). -/

open Sys2Proof Sys2Proof.Machine

/-! Encoding -/

/-- Words written out from spec 30_encoding.md R99, R98 and R100, their bytes in memory order, and what they stand for:
at least one of every slot 0 to F, variant words, and an unmapped word of each of the six rows. That the low nibble of slots 5 and 9 is ignored,
and which words of slot 8 are unmapped, the spec marks as decision D28 and conflict C3. That a term also carries the bits
its instruction ignores is the model's choice (log entry 12, DESIGN CHOICE). -/
def Obligations.SpecWordsDecode : Prop :=
  decodeBytes [0x00#8, 0xE0#8] = .ok (.cls, []) ∧
  decodeBytes [0x00#8, 0xEE#8] = .ok (.ret, []) ∧
  decodeBytes [0x01#8, 0x23#8] = .ok (.sys 0x123#12, []) ∧
  decodeBytes [0x00#8, 0xFF#8] = .ok (.sys 0x0FF#12, []) ∧
  decodeBytes [0x12#8, 0x34#8] = .ok (.jp 0x234#12, []) ∧
  decodeBytes [0x24#8, 0x00#8] = .ok (.call 0x400#12, []) ∧
  decodeBytes [0x33#8, 0x10#8] = .ok (.seImm 3#4 0x10#8, []) ∧
  decodeBytes [0x43#8, 0x11#8] = .ok (.sneImm 3#4 0x11#8, []) ∧
  decodeBytes [0x51#8, 0x23#8] = .ok (.seReg 1#4 2#4 3#4, []) ∧
  decodeBytes [0x60#8, 0x05#8] = .ok (.ldImm 0#4 0x05#8, []) ∧
  decodeBytes [0x70#8, 0x05#8] = .ok (.addImm 0#4 0x05#8, []) ∧
  decodeBytes [0x81#8, 0x25#8] = .ok (.subReg 1#4 2#4, []) ∧
  decodeBytes [0x81#8, 0x0E#8] = .ok (.shl 1#4 0#4, []) ∧
  decodeBytes [0x81#8, 0x28#8] = .ok (.unmapped89 1#4 2#4 0#1, []) ∧
  decodeBytes [0x83#8, 0x4B#8] = .ok (.unmappedAB 3#4 4#4 1#1, []) ∧
  decodeBytes [0x85#8, 0x6C#8] = .ok (.unmappedCD 5#4 6#4 0#1, []) ∧
  decodeBytes [0x81#8, 0x2F#8] = .ok (.unmapped8F 1#4 2#4, []) ∧
  decodeBytes [0x91#8, 0x2A#8] = .ok (.sneReg 1#4 2#4 0xA#4, []) ∧
  decodeBytes [0xA3#8, 0x00#8] = .ok (.ldI 0x300#12, []) ∧
  decodeBytes [0xB3#8, 0x00#8] = .ok (.jpV0 0x300#12, []) ∧
  decodeBytes [0xC3#8, 0x0F#8] = .ok (.rnd 3#4 0x0F#8, []) ∧
  decodeBytes [0xD0#8, 0x15#8] = .ok (.drw 0#4 1#4 5#4, []) ∧
  decodeBytes [0xE5#8, 0x9E#8] = .ok (.skp 5#4, []) ∧
  decodeBytes [0xE1#8, 0xFF#8] = .ok (.unmappedE 1#4 0xFF#8, []) ∧
  decodeBytes [0xF4#8, 0x0A#8] = .ok (.ldVxK 4#4, []) ∧
  decodeBytes [0xF2#8, 0x65#8] = .ok (.loadRegs 2#4, []) ∧
  decodeBytes [0xF0#8, 0x00#8] = .ok (.unmappedF 0#4 0x00#8, [])

/-- Every well-formed instruction, every operand at every value, decodes from its own word (R91, R92, R99, R105). That the
operands include the bits an instruction ignores, which R105 drops, is the model's choice (log entry 12, DESIGN CHOICE). -/
def Obligations.EncodedInstructionDecodes : Prop :=
  ∀ i : Instr, i.wf = true → decode (encode i) = i

/-- Every 16-bit word decodes to a well-formed instruction, and no word is refused (the spec's decode is total, R105,
R124). That the instruction is the only one for its word, and that encoding it gives the word back with no bit dropped,
holds of the model's own terms, which carry the bits an instruction ignores where R105 drops them (log entry 12, DESIGN
CHOICE). -/
def Obligations.EveryWordHasOneInstruction : Prop :=
  ∀ w : Word, (decode w).wf = true ∧ encode (decode w) = w ∧ ∀ i : Instr, i.wf = true → encode i = w → i = decode w

/-- The bits an instruction ignores change nothing it does: the low nibble of slots 5 and 9, and the Y field of the
shifts. The spec marks these as its decisions D28 (R98) and D4 (R197, R199). -/
def Obligations.IgnoredBitsChangeNothing : Prop :=
  ∀ (x y n m : Nibble) (s : State),
    exec (decode (0x5#4 ++ x ++ y ++ n)) s = exec (decode (0x5#4 ++ x ++ y ++ m)) s ∧
    exec (decode (0x9#4 ++ x ++ y ++ n)) s = exec (decode (0x9#4 ++ x ++ y ++ m)) s ∧
    exec (decode (0x8#4 ++ x ++ n ++ 0x6#4)) s = exec (decode (0x8#4 ++ x ++ m ++ 0x6#4)) s ∧
    exec (decode (0x8#4 ++ x ++ n ++ 0xE#4)) s = exec (decode (0x8#4 ++ x ++ m ++ 0xE#4)) s

/-! The step -/

/-- A step runs the decoded instruction: with no fault recorded and pc in memory, the word w is the byte at pc (high)
and the byte at pc + 1 (low), it is written to `opcode`, and the step answers what `exec` answers for the instruction
those bytes decode to; where that took a fault, the state before the step with the fault recorded (R120, R121, R123,
R300, decision D16; that this state is answered as a next state is log entry 3, and that `opcode` then keeps its old
value log entry 4, both DEDUCED). -/
def Obligations.StepRunsTheDecodedInstruction : Prop :=
  ∀ (s : State) (i : Instr) (w : Word), s.fault = none → s.pc.toNat ≤ 0xFFE →
    decodeBytes [s.byteAt s.pc.toNat, s.byteAt (s.pc.toNat + 1)] = .ok (i, []) →
    w.toNat = 256 * (s.byteAt s.pc.toNat).toNat + (s.byteAt (s.pc.toNat + 1)).toNat →
      (∀ t, exec i { s with opcode := w } = .next t → t.fault = none → step s = .next t) ∧
      (∀ t r, exec i { s with opcode := w } = .next t → t.fault = some r → step s = .next { s with fault := some r }) ∧
      (∀ f, exec i { s with opcode := w } = .fault f → step s = .fault f) ∧
      (∀ r, exec i { s with opcode := w } = .refused r → step s = .refused r)

/-- Fetch faults when pc > 0xFFE, with the opcode held before the step recorded (R122; decisions D9, D24), and no
instruction, whatever it sets pc to, records PcOutOfRange itself. That the faulting step answers a next state is log
entry 3 (DEDUCED). -/
def Obligations.PcFaultExactlyAtFetch : Prop :=
  ∀ s : State, s.fault = none →
    (0xFFE < s.pc.toNat → step s = .next { s with fault := some ⟨.pcOutOfRange s.pc, s.pc, s.opcode⟩ }) ∧
    (s.pc.toNat ≤ 0xFFE → ∀ t r p, step s = .next t → t.fault = some r → r.reason ≠ .pcOutOfRange p)

/-- With a fault recorded there is no step, and of the host's operations only `initialize` and `reset` clear the record
(R129, R305, R343). That the model answers the named stop is log entry 3. -/
def Obligations.FaultedCoreIsStopped : Prop :=
  ∀ (s : State) (r : FaultRecord), s.fault = some r →
    step s = .fault (.stopped r) ∧
    ∀ (op : HostOp) (t : State), op.apply s = some t →
      if op = .coldStart ∨ op = .warmReset then t.fault = none else t.fault = some r

/-- With no fault recorded the core always has a step: decode is total and no instruction is refused (R120, R124). R120
says that a step answers the next state or a fault: that a step which faults, at fetch or in its handler, also answers a
next state, the state before it with the fault recorded, is the model's reading of R300 and decision D16 (log entry 3,
DEDUCED). -/
def Obligations.UnfaultedCoreAlwaysSteps : Prop :=
  ∀ s : State, s.fault = none → ∃ t, step s = .next t

/-- Every fault is precise: a step that records one leaves the state before it, all of it, with the record set to the
reason, the pc and the fetched word (R300; decisions D16 and, for the opcode of a fetch fault, D24). That the field
`opcode` is among what keeps its old value, although fetch has written it, is log entry 4, and that the faulting step
answers a next state log entry 3 (both DEDUCED). -/
def Obligations.FaultsArePrecise : Prop :=
  ∀ (s t : State) (r : FaultRecord), step s = .next t → t.fault = some r →
    s.fault = none ∧ t = { s with fault := some r } ∧ r.pc = s.pc ∧
    (s.pc.toNat ≤ 0xFFE →
      r.opcode.toNat = 256 * (s.byteAt s.pc.toNat).toNat + (s.byteAt (s.pc.toNat + 1)).toNat) ∧
    (0xFFE < s.pc.toNat → r.opcode = s.opcode)

/-- Every instruction meets exactly the fault `faultOf` names, by the conditions of R301: then it records it with pc and
opcode and changes nothing else; else it leaves the record alone (decisions D1, D8, D12, D16). That a fault answers a
next state is log entry 3 (DEDUCED). -/
def Obligations.InstructionFaultConditions : Prop :=
  ∀ (i : Instr) (s : State),
    (∀ r, faultOf i s = some r → exec i s = .next { s with fault := some ⟨r, s.pc, s.opcode⟩ }) ∧
    (faultOf i s = none → ∃ t, exec i s = .next t ∧ t.fault = s.fault)

/-- Every instruction that meets no fault completes, with the pc of its class in the table of R125. Beyond that table,
`nextPcOf` gives the targets of jumps and calls and the skip conditions, which the spec marks as from general knowledge
(R141 to R147, R240, R241), no masking or check of a target (decision D9), the return past the CALL (D11), the ignored
nibble of slots 5 and 9 (D28), the key wait without a release (D26), and the wrap of pc modulo 2^16, which R125 marks as
derived; the faults it excludes follow decisions D1, D8 and D12. -/
def Obligations.PcAdvancesByClass : Prop :=
  ∀ (i : Instr) (s : State), faultOf i s = none → ∃ t, exec i s = .next t ∧ t.pc.toNat = nextPcOf i s

/-- `step` neither writes the run flag nor depends on it (R128, decision D25). That the two steps compared draw the same
byte where they run CXNN is the model's choice (log entry 2). -/
def Obligations.StepIgnoresRunFlag : Prop :=
  ∀ (s : State) (b : Bool),
    (∀ t, step s = .next t → t.run = s.run ∧ step { s with run := b } = .next { t with run := b }) ∧
    (∀ f, step s = .fault f → step { s with run := b } = .fault f)

/-! Invariants -/

/-- Every step keeps the machine's invariant. Its clauses: memory in canonical form, which is the model's own choice of
form (log entry 8, DESIGN CHOICE); pixels 0 or 1 (R28) and pc at most 0x10FE (R24), sentences the spec marks as derived;
stack entries at most 0xFFE, an inference from R122 and R142 (decisions D9, D11); and a fault record that names its pc
(R300, decision D16). -/
def Obligations.StepKeepsMachineInvariant : Prop :=
  ∀ s t : State, s.Inv → step s = .next t → t.Inv

/-- The reset state meets the invariant. Its canonical-memory clause is the model's own choice of form (log entry 8,
DESIGN CHOICE); the reset values are those of R340, with decision D21, and of the default parameters (log entry 5). -/
def Obligations.ResetMeetsMachineInvariant : Prop := State.reset.Inv

/-- Every host operation keeps the invariant, for every value of the parameters. Its canonical-memory clause is the
model's own choice of form (log entry 8), and so is that a ROM too long to load is no move (log entry 15), both DESIGN
CHOICE. -/
def Obligations.HostOperationsKeepMachineInvariant : Prop :=
  ∀ (op : HostOp) (s t : State), s.Inv → op.apply s = some t → t.Inv

/-- Along every interleaving of steps and host operations from reset, under every value of the parameters, whatever ROMs
are loaded, keys pressed and timers ticked, the invariant holds (R312, decision D18). It rests on the model's choices of
log entries 1 (parameters in `cfg`), 7 (events beside the step), 8 (canonical memory) and 15 (a ROM too long to load). -/
def Obligations.EveryInterleavingKeepsMachineInvariant : Prop :=
  ∀ (c : Config) (es : List Event) (s : State), runEvents es { State.reset with cfg := c } = some s → s.Inv

/-- A memory in canonical form is determined by what it reads as (the model's own form, log entry 8). -/
def Obligations.CanonicalMemoriesWithEqualReadsAreEqual : Prop :=
  ∀ (font : Font) (m m' : Memory), Memory.wf font m = true → Memory.wf font m' = true →
    (∀ a, a ≤ 0xFFF → Memory.read font m a = Memory.read font m' a) → m = m'

/-! Whole-machine frames -/

/-- No instruction writes a general register it does not name as its destination, and VF only the six that use it as a
flag (R22). -/
def Obligations.RegistersOutsideDestinationsKept : Prop :=
  ∀ (i : Instr) (s t : State), exec i s = .next t → sameRegsBut (destsOf i) s t

/-- Who writes what beside the registers: memory only FX33 and FX55 (R65), I only ANNN, FX1E and FX29, the stack only
2NNN and 00EE (R25), DT only FX15, ST only FX18 (R26, R27), the pixels only 00E0 and DXYN (R28); the redraw flag is
never cleared (R29), the oracle is asked only by CXNN, and keys, run flag, opcode and parameters are never written
(R30, R32, R9). -/
def Obligations.OnlyNamedInstructionsWrite : Prop :=
  ∀ (i : Instr) (s t : State), exec i s = .next t →
    ((∀ x, i ≠ .ldB x ∧ i ≠ .storeRegs x) → sameBytes s t) ∧
    ((∀ x nnn, i ≠ .ldI nnn ∧ i ≠ .addI x ∧ i ≠ .ldF x) → t.i = s.i) ∧
    ((∀ nnn, i ≠ .call nnn) → t.stack = s.stack) ∧
    ((∀ nnn, i ≠ .call nnn) → i ≠ .ret → t.sp = s.sp) ∧
    ((∀ x, i ≠ .ldDtVx x) → t.dt = s.dt) ∧
    ((∀ x, i ≠ .ldStVx x) → t.st = s.st) ∧
    (i ≠ .cls → (∀ x y n, i ≠ .drw x y n) → t.fb = s.fb ∧ t.redraw = s.redraw) ∧
    (s.redraw = true → t.redraw = true) ∧
    ((∀ x nn, i ≠ .rnd x nn) → t.draws = s.draws) ∧
    t.key = s.key ∧ t.run = s.run ∧ t.opcode = s.opcode ∧ t.cfg = s.cfg

/-! SYS and unmapped words -/

/-- SYS is a no-op whatever its address, so a step on two zero bytes only advances pc (and writes `opcode`) (R126). -/
def Obligations.SysOnlyAdvances : Prop :=
  (∀ (nnn : Addr) (s : State), ∃ t, exec (.sys nnn) s = .next t ∧ t.pc.toNat = (s.pc.toNat + 2) % 65536 ∧
    changesOnly [] s t) ∧
  ∀ s : State, s.fault = none → s.pc.toNat ≤ 0xFFE → s.byteAt s.pc.toNat = 0#8 → s.byteAt (s.pc.toNat + 1) = 0#8 →
    step s = .next { s with pc := s.pc + 2#16, opcode := 0#16 }

/-- The six rows of unmapped words under both values of `UNMAPPED_POLICY`: a no-op, or UnknownOpcode (R127; the
parameter is the spec's decision D1). -/
def Obligations.UnmappedWordsFollowThePolicy : Prop :=
  ∀ (x y : Nibble) (lo : BitVec 1) (kk : Byte) (s : State),
    ∀ i ∈ [Instr.unmapped89 x y lo, .unmappedAB x y lo, .unmappedCD x y lo, .unmapped8F x y, .unmappedE x kk,
      .unmappedF x kk],
      (s.cfg.unmappedPolicy = .nop →
        ∃ t, exec i s = .next t ∧ t.pc.toNat = (s.pc.toNat + 2) % 65536 ∧ changesOnly [] s t) ∧
      (s.cfg.unmappedPolicy = .fault →
        exec i s = .next { s with fault := some ⟨.unknownOpcode s.opcode, s.pc, s.opcode⟩ })

/-! Control transfer -/

/-- JP goes to nnn, JP V0 to nnn + V0, not masked to 12 bits; nothing else changes (R141, R147; targets from general
knowledge, no masking by decision D9). -/
def Obligations.JumpsSetPc : Prop :=
  ∀ (nnn : Addr) (s : State),
    (∃ t, exec (.jp nnn) s = .next t ∧ t.pc.toNat = nnn.toNat ∧ changesOnly [] s t) ∧
    (∃ t, exec (.jpV0 nnn) s = .next t ∧ t.pc.toNat = nnn.toNat + (s.reg 0x0#4).toNat ∧ changesOnly [] s t)

/-- CALL with a free entry stores its own address there, counts it, and goes to nnn; every other entry and all else is
as before (R142; target from general knowledge, stack discipline by decision D11). -/
def Obligations.CallPushesItsAddress : Prop :=
  ∀ (nnn : Addr) (s : State), s.sp.val < 16 →
    ∃ t, exec (.call nnn) s = .next t ∧ t.pc.toNat = nnn.toNat ∧ t.sp.val = s.sp.val + 1 ∧
      (∀ k : Fin 16, t.stack[k] = if k.val = s.sp.val then s.pc else s.stack[k]) ∧
      sameRegsBut [] s t ∧ t.i = s.i ∧ sameBytes s t ∧ sameTimers s t ∧ sameDisplay s t ∧ sameControl s t ∧
      t.draws = s.draws

/-- RET pops the newest entry and goes 2 past it, the entry itself staying; with no entry in use it records
StackUnderflow and changes nothing else (R140). -/
def Obligations.RetPopsAndAddsTwo : Prop :=
  (∀ s : State, s.sp.val = 0 → exec .ret s = .next { s with fault := some ⟨.stackUnderflow, s.pc, s.opcode⟩ }) ∧
  ∀ (s : State) (k : Fin 16), s.sp.val = k.val + 1 →
    ∃ t, exec .ret s = .next t ∧ t.pc.toNat = (s.stack[k].toNat + 2) % 65536 ∧ t.sp.val = k.val ∧ t.stack = s.stack ∧
      sameRegsBut [] s t ∧ t.i = s.i ∧ sameBytes s t ∧ sameTimers s t ∧ sameDisplay s t ∧ sameControl s t ∧
      t.draws = s.draws

/-- A call with 16 entries in use records StackOverflow and changes nothing else (R142, R301). -/
def Obligations.CallBeyondSixteenFaults : Prop :=
  ∀ (nnn : Addr) (s : State), s.sp.val = 16 →
    exec (.call nnn) s = .next { s with fault := some ⟨.stackOverflow, s.pc, s.opcode⟩ }

/-- CALL followed at once by RET leaves pc exactly 2 past the CALL and sp as it was (R140). -/
def Obligations.CallThenRetReturns : Prop :=
  ∀ (nnn : Addr) (s : State), s.sp.val < 16 →
    ∃ u t, exec (.call nnn) s = .next u ∧ exec .ret u = .next t ∧ t.pc = s.pc + 2#16 ∧ t.sp = s.sp ∧
      sameRegsBut [] s t ∧ t.i = s.i ∧ sameBytes s t

/-- The four skips on register values: pc + 4 when the condition holds, else pc + 2, nothing else changes (R143 to
R146; conditions from general knowledge, ignored nibble by decision D28). -/
def Obligations.SkipsFollowTheirCondition : Prop :=
  ∀ (x y n : Nibble) (nn : Byte) (s : State),
    (∃ t, exec (.seImm x nn) s = .next t ∧ changesOnly [] s t ∧
      t.pc.toNat = (s.pc.toNat + if (s.reg x).toNat = nn.toNat then 4 else 2) % 65536) ∧
    (∃ t, exec (.sneImm x nn) s = .next t ∧ changesOnly [] s t ∧
      t.pc.toNat = (s.pc.toNat + if (s.reg x).toNat = nn.toNat then 2 else 4) % 65536) ∧
    (∃ t, exec (.seReg x y n) s = .next t ∧ changesOnly [] s t ∧
      t.pc.toNat = (s.pc.toNat + if (s.reg x).toNat = (s.reg y).toNat then 4 else 2) % 65536) ∧
    (∃ t, exec (.sneReg x y n) s = .next t ∧ changesOnly [] s t ∧
      t.pc.toNat = (s.pc.toNat + if (s.reg x).toNat = (s.reg y).toNat then 2 else 4) % 65536)

/-- A jump to its own address changes nothing but `opcode`: a finished program stays finished (R141, R351, decision
D27). -/
def Obligations.FinishedProgramStaysFinished : Prop :=
  ∀ s : State, s.finished → ∃ w, s.fetch = some w ∧ step s = .next { s with opcode := w } ∧
    State.finished { s with opcode := w }

/-! Registers and immediates -/

/-- LD Vx, nn (R170). -/
def Obligations.LoadImmediate : Prop :=
  ∀ (x : Nibble) (nn : Byte) (s : State),
    ∃ t, exec (.ldImm x nn) s = .next t ∧ t.reg x = nn ∧ t.pc.toNat = (s.pc.toNat + 2) % 65536 ∧ changesOnly [x] s t

/-- ADD Vx, nn adds modulo 256 and leaves VF alone, also on a carry (R171; no flag by decision D6). -/
def Obligations.AddImmediateWithoutFlag : Prop :=
  ∀ (x : Nibble) (nn : Byte) (s : State),
    ∃ t, exec (.addImm x nn) s = .next t ∧ (t.reg x).toNat = ((s.reg x).toNat + nn.toNat) % 256 ∧
      t.pc.toNat = (s.pc.toNat + 2) % 65536 ∧ changesOnly [x] s t

/-- LD I, nnn puts the 12-bit value in I (R172, from general knowledge); ADD I, Vx adds modulo 2^16 and writes no flag
(R270, from general knowledge; decisions D6, D7); LD F, Vx points I at a glyph, masked or not as the parameter says
(R222, from general knowledge; decision D13). Nothing else but pc changes. -/
def Obligations.IndexRegisterWrites : Prop :=
  ∀ (nnn : Addr) (x : Nibble) (s : State),
    ∀ i v, (i, v) ∈ [(Instr.ldI nnn, nnn.toNat), (.addI x, (s.i.toNat + (s.reg x).toNat) % 65536),
      (.ldF x, (if s.cfg.fontDigitMode = .masked then (s.reg x).toNat % 16 else (s.reg x).toNat) * 5)] →
      ∃ t, exec i s = .next t ∧ t.i.toNat = v ∧ t.pc.toNat = (s.pc.toNat + 2) % 65536 ∧ sameRegsBut [] s t ∧
        sameBytes s t ∧ sameStack s t ∧ sameTimers s t ∧ sameDisplay s t ∧ sameControl s t ∧ t.draws = s.draws

/-- RND puts the oracle's byte AND nn in Vx, whatever that byte is: bits outside nn are 0 under every draw (R173, from
general knowledge; the oracle is decision D15, log entry 2). Nothing is said of the byte itself. -/
def Obligations.RandomByteIsMasked : Prop :=
  ∀ (x : Nibble) (nn : Byte) (s : State),
    ∃ t, exec (.rnd x nn) s = .next t ∧
      (∀ k < 8, (t.reg x).getLsbD k = ((Config.rngByte s.draws).getLsbD k && nn.getLsbD k)) ∧ (t.reg x).toNat ≤ nn.toNat ∧
      t.draws = s.draws + 1 ∧ t.pc.toNat = (s.pc.toNat + 2) % 65536 ∧ sameRegsBut [x] s t ∧ t.i = s.i ∧
      sameBytes s t ∧ sameStack s t ∧ sameTimers s t ∧ sameDisplay s t ∧ sameControl s t

/-! Arithmetic and logic -/

/-- LD, OR, AND and XOR of two registers, bit by bit, with VF as before unless it is the destination (R191 to R194, from
general knowledge; decision D6). -/
def Obligations.MoveAndLogicWithoutFlag : Prop :=
  ∀ (x y : Nibble) (s : State),
    ∀ i f, (i, f) ∈ [(Instr.ldReg x y, fun (_ b : Bool) => b), (.orReg x y, fun a b => a || b),
      (.andReg x y, fun a b => a && b), (.xorReg x y, fun a b => a != b)] →
      ∃ t, exec i s = .next t ∧ (∀ k < 8, (t.reg x).getLsbD k = f ((s.reg x).getLsbD k) ((s.reg y).getLsbD k)) ∧
        t.pc.toNat = (s.pc.toNat + 2) % 65536 ∧ changesOnly [x] s t

/-- ADD Vx, Vy for x other than F: the sum modulo 256, and VF = 1 iff the 9-bit sum exceeds 255, else 0. With x = F,
`FlagDestinationFollowsWriteOrder` (R195). -/
def Obligations.AddSetsCarry : Prop :=
  ∀ (x y : Nibble) (s : State), x ≠ vf →
    ∃ t, exec (.addReg x y) s = .next t ∧ (t.reg x).toNat = ((s.reg x).toNat + (s.reg y).toNat) % 256 ∧
      (t.reg vf).toNat = (if 255 < (s.reg x).toNat + (s.reg y).toNat then 1 else 0) ∧
      t.pc.toNat = (s.pc.toNat + 2) % 65536 ∧ changesOnly [x, vf] s t

/-- SUB and SUBN for x other than F: the difference modulo 256, and VF = 1 iff no borrow occurred, equal operands
included (R196, R198, conflict C1). With x = F, `FlagDestinationFollowsWriteOrder`. -/
def Obligations.SubtractSetsNoBorrow : Prop :=
  ∀ (x y : Nibble) (s : State), x ≠ vf →
    (∃ t, exec (.subReg x y) s = .next t ∧ (t.reg x).toNat = ((s.reg x).toNat + 256 - (s.reg y).toNat) % 256 ∧
      (t.reg vf).toNat = (if (s.reg y).toNat ≤ (s.reg x).toNat then 1 else 0) ∧
      t.pc.toNat = (s.pc.toNat + 2) % 65536 ∧ changesOnly [x, vf] s t) ∧
    (∃ t, exec (.subnReg x y) s = .next t ∧ (t.reg x).toNat = ((s.reg y).toNat + 256 - (s.reg x).toNat) % 256 ∧
      (t.reg vf).toNat = (if (s.reg x).toNat ≤ (s.reg y).toNat then 1 else 0) ∧
      t.pc.toNat = (s.pc.toNat + 2) % 65536 ∧ changesOnly [x, vf] s t)

/-- SHR and SHL for x other than F shift Vx in place whatever the Y field, and VF is the bit shifted out, for SHL under
`referenceZero` always 0 (R197, R199; decisions D3, D4). With x = F, `FlagDestinationFollowsWriteOrder`. -/
def Obligations.ShiftsSetTheBitShiftedOut : Prop :=
  ∀ (x y : Nibble) (s : State), x ≠ vf →
    (∃ t, exec (.shr x y) s = .next t ∧ (t.reg x).toNat = (s.reg x).toNat / 2 ∧
      (t.reg vf).toNat = (s.reg x).toNat % 2 ∧ t.pc.toNat = (s.pc.toNat + 2) % 65536 ∧ changesOnly [x, vf] s t) ∧
    (∃ t, exec (.shl x y) s = .next t ∧ (t.reg x).toNat = (s.reg x).toNat * 2 % 256 ∧
      (t.reg vf).toNat = (if s.cfg.shlVfMode = .msb then (s.reg x).toNat / 128 else 0) ∧
      t.pc.toNat = (s.pc.toNat + 2) % 65536 ∧ changesOnly [x, vf] s t)

/-- The five instructions with a result and a flag when VF is the destination: the last write wins, the result under
`flagThenResult`, the flag under `resultThenFlag`; the old VF is the operand (R190, decision D5). -/
def Obligations.FlagDestinationFollowsWriteOrder : Prop :=
  ∀ (y : Nibble) (s : State),
    ∀ i result flag, (i, result, flag) ∈
      [(Instr.addReg vf y, ((s.reg vf).toNat + (s.reg y).toNat) % 256,
          if 255 < (s.reg vf).toNat + (s.reg y).toNat then 1 else 0),
        (.subReg vf y, ((s.reg vf).toNat + 256 - (s.reg y).toNat) % 256,
          if (s.reg y).toNat ≤ (s.reg vf).toNat then 1 else 0),
        (.shr vf y, (s.reg vf).toNat / 2, (s.reg vf).toNat % 2),
        (.subnReg vf y, ((s.reg y).toNat + 256 - (s.reg vf).toNat) % 256,
          if (s.reg vf).toNat ≤ (s.reg y).toNat then 1 else 0),
        (.shl vf y, (s.reg vf).toNat * 2 % 256, if s.cfg.shlVfMode = .msb then (s.reg vf).toNat / 128 else 0)] →
      ∃ t, exec i s = .next t ∧
        (t.reg vf).toNat = (if s.cfg.vfWriteOrder = .flagThenResult then result else flag) ∧
        t.pc.toNat = (s.pc.toNat + 2) % 65536 ∧ changesOnly [vf] s t

/-! Display -/

/-- CLS clears every pixel and sets redraw, also on a clear screen; VF is not written (R220). -/
def Obligations.ClearScreen : Prop :=
  ∀ s : State, ∃ t, exec .cls s = .next t ∧ (∀ py px, t.pixel py px = 0#8) ∧ t.redraw = true ∧
    t.pc.toNat = (s.pc.toNat + 2) % 65536 ∧ sameRegsBut [] s t ∧ t.i = s.i ∧ sameBytes s t ∧ sameStack s t ∧
    sameTimers s t ∧ sameControl s t ∧ t.draws = s.draws

/-- DRW with its rows in memory, or with no row: exactly the covered pixels are XORed with 1, VF is 1 iff a covered
pixel was set and else 0, redraw is set (R221; wrap by decision D2, collision by conflict C2, bit order from general
knowledge). -/
def Obligations.DrawXorsTheSprite : Prop :=
  ∀ (x y n : Nibble) (s : State), n.toNat = 0 ∨ s.i.toNat + n.toNat - 1 ≤ 0xFFF →
    ∃ t, exec (.drw x y n) s = .next t ∧
      (∀ py px, s.spriteCovers x y n py px → t.pixel py px = s.pixel py px ^^^ 1#8) ∧
      (∀ py px, ¬ s.spriteCovers x y n py px → t.pixel py px = s.pixel py px) ∧
      ((∃ py px, s.spriteCovers x y n py px ∧ s.pixel py px = 1#8) → t.reg vf = 1#8) ∧
      ((¬ ∃ py px, s.spriteCovers x y n py px ∧ s.pixel py px = 1#8) → t.reg vf = 0#8) ∧
      t.redraw = true ∧ t.pc.toNat = (s.pc.toNat + 2) % 65536 ∧ sameRegsBut [vf] s t ∧ t.i = s.i ∧ sameBytes s t ∧
      sameStack s t ∧ sameTimers s t ∧ sameControl s t ∧ t.draws = s.draws

/-- Drawing the same sprite at the same place again restores every pixel, and sets VF iff the first draw set a pixel
that was unset. R221 says "iff the sprite has a set bit", which its own pseudocode gives only where the first draw met
no set pixel: the model follows the pseudocode (log entry 10). -/
def Obligations.DrawTwiceRestoresTheScreen : Prop :=
  ∀ (x y x' y' n : Nibble) (s s' t t' : State),
    exec (.drw x y n) s = .next s' → s'.fault = none →
    t.fb = s'.fb → t.i = s.i → sameBytes s t → t.reg x' = s.reg x → t.reg y' = s.reg y →
    exec (.drw x' y' n) t = .next t' → t'.fault = none →
      t'.fb = s.fb ∧
      (t'.reg vf = 1#8 ↔ ∃ py px, s.spriteCovers x y n py px ∧ s.pixel py px = 0#8) ∧
      (t'.reg vf = 0#8 ∨ t'.reg vf = 1#8)

/-! Keypad -/

/-- SKP and SKNP with a key index up to 15: the skip follows the key's state (R240, R241; key index from general
knowledge). -/
def Obligations.KeySkipsFollowTheKey : Prop :=
  ∀ (x : Nibble) (s : State) (k : Fin 16), (s.reg x).toNat = k.val →
    (∃ t, exec (.skp x) s = .next t ∧ changesOnly [] s t ∧
      t.pc.toNat = (s.pc.toNat + if s.key[k] = true then 4 else 2) % 65536) ∧
    (∃ t, exec (.sknp x) s = .next t ∧ changesOnly [] s t ∧
      t.pc.toNat = (s.pc.toNat + if s.key[k] = true then 2 else 4) % 65536)

/-- SKP and SKNP with a key index above 15 record KeyOutOfRange and change nothing else (R240, R241, decision D12). -/
def Obligations.KeyIndexAboveFifteenFaults : Prop :=
  ∀ (x : Nibble) (s : State), 15 < (s.reg x).toNat →
    exec (.skp x) s = .next { s with fault := some ⟨.keyOutOfRange (s.reg x), s.pc, s.opcode⟩ } ∧
    exec (.sknp x) s = .next { s with fault := some ⟨.keyOutOfRange (s.reg x), s.pc, s.opcode⟩ }

/-- FX0A with no key pressed changes nothing; with one pressed it puts the lowest pressed key's index in Vx and advances
(R242; no release wait by decision D26). -/
def Obligations.KeyWaitTakesTheLowestKey : Prop :=
  ∀ (x : Nibble) (s : State),
    ((∀ k : Fin 16, s.key[k] = false) → exec (.ldVxK x) s = .next s) ∧
    (∀ k : Fin 16, s.key[k] = true → (∀ j : Fin 16, j < k → s.key[j] = false) →
      ∃ t, exec (.ldVxK x) s = .next t ∧ (t.reg x).toNat = k.val ∧ t.pc.toNat = (s.pc.toNat + 2) % 65536 ∧
        changesOnly [x] s t)

/-! Timers -/

/-- FX07 reads DT, FX15 writes it, FX18 writes ST; nothing else but pc changes, so that a step never counts a timer
down (R260 to R262, from general knowledge). -/
def Obligations.TimerMoves : Prop :=
  ∀ (x : Nibble) (s : State),
    (∃ t, exec (.ldVxDt x) s = .next t ∧ t.reg x = s.dt ∧ t.pc.toNat = (s.pc.toNat + 2) % 65536 ∧ changesOnly [x] s t) ∧
    (∃ t, exec (.ldDtVx x) s = .next t ∧ t.dt = s.reg x ∧ t.st = s.st ∧ t.pc.toNat = (s.pc.toNat + 2) % 65536 ∧
      sameRegsBut [] s t ∧ t.i = s.i ∧ sameBytes s t ∧ sameStack s t ∧ sameDisplay s t ∧ sameControl s t ∧
      t.draws = s.draws) ∧
    (∃ t, exec (.ldStVx x) s = .next t ∧ t.st = s.reg x ∧ t.dt = s.dt ∧ t.pc.toNat = (s.pc.toNat + 2) % 65536 ∧
      sameRegsBut [] s t ∧ t.i = s.i ∧ sameBytes s t ∧ sameStack s t ∧ sameDisplay s t ∧ sameControl s t ∧
      t.draws = s.draws)

/-! Memory blocks -/

/-- FX33 with its three bytes in memory writes the hundreds, tens and ones of Vx at I, I + 1, I + 2, and no other byte;
else it records MemOutOfRange and changes nothing else (R271). -/
def Obligations.BcdStoresDigits : Prop :=
  ∀ (x : Nibble) (s : State),
    (0xFFF < s.i.toNat + 2 →
      exec (.ldB x) s = .next { s with fault := some ⟨.memOutOfRange (max s.i.toNat 0x1000), s.pc, s.opcode⟩ }) ∧
    (s.i.toNat + 2 ≤ 0xFFF →
      ∃ t, exec (.ldB x) s = .next t ∧ (t.byteAt s.i.toNat).toNat = (s.reg x).toNat / 100 ∧
        (t.byteAt (s.i.toNat + 1)).toNat = (s.reg x).toNat / 10 % 10 ∧
        (t.byteAt (s.i.toNat + 2)).toNat = (s.reg x).toNat % 10 ∧ sameBytesBut s.i.toNat 3 s t ∧
        t.pc.toNat = (s.pc.toNat + 2) % 65536 ∧ sameRegsBut [] s t ∧ t.i = s.i ∧ sameStack s t ∧ sameTimers s t ∧
        sameDisplay s t ∧ sameControl s t ∧ t.draws = s.draws)

/-- FX55 with its block in memory writes V0 to Vx at I and up, and no other byte; I is unchanged; else it records
MemOutOfRange and changes nothing else (R272). -/
def Obligations.RegistersAreStored : Prop :=
  ∀ (x : Nibble) (s : State),
    (0xFFF < s.i.toNat + x.toNat →
      exec (.storeRegs x) s = .next { s with fault := some ⟨.memOutOfRange (max s.i.toNat 0x1000), s.pc, s.opcode⟩ }) ∧
    (s.i.toNat + x.toNat ≤ 0xFFF →
      ∃ t, exec (.storeRegs x) s = .next t ∧ (∀ r : Nibble, r.toNat ≤ x.toNat → t.byteAt (s.i.toNat + r.toNat) = s.reg r) ∧
        sameBytesBut s.i.toNat (x.toNat + 1) s t ∧ t.pc.toNat = (s.pc.toNat + 2) % 65536 ∧ sameRegsBut [] s t ∧
        t.i = s.i ∧ sameStack s t ∧ sameTimers s t ∧ sameDisplay s t ∧ sameControl s t ∧ t.draws = s.draws)

/-- FX65 with its block in memory loads V0 to Vx from I and up, and no other register; I is unchanged; else it records
MemOutOfRange and changes nothing else (R273). -/
def Obligations.RegistersAreLoaded : Prop :=
  ∀ (x : Nibble) (s : State),
    (0xFFF < s.i.toNat + x.toNat →
      exec (.loadRegs x) s = .next { s with fault := some ⟨.memOutOfRange (max s.i.toNat 0x1000), s.pc, s.opcode⟩ }) ∧
    (s.i.toNat + x.toNat ≤ 0xFFF →
      ∃ t, exec (.loadRegs x) s = .next t ∧ (∀ r : Nibble, r.toNat ≤ x.toNat → t.reg r = s.byteAt (s.i.toNat + r.toNat)) ∧
        (∀ r : Nibble, x.toNat < r.toNat → t.reg r = s.reg r) ∧ t.pc.toNat = (s.pc.toNat + 2) % 65536 ∧ t.i = s.i ∧
        sameBytes s t ∧ sameStack s t ∧ sameTimers s t ∧ sameDisplay s t ∧ sameControl s t ∧ t.draws = s.draws)

/-- An instruction whose block reaches past 0xFFF records MemOutOfRange with the lowest such address of the block, and
changes nothing else, neither memory nor registers nor pixels (R62, R301; check before write by decision D8). -/
def Obligations.BlockPastMemoryFaults : Prop :=
  ∀ (x y n : Nibble) (s : State),
    ∀ i size, (i, size) ∈ [(Instr.drw x y n, n.toNat), (.ldB x, 3), (.storeRegs x, x.toNat + 1),
      (.loadRegs x, x.toNat + 1)] →
      (∃ a, s.i.toNat ≤ a ∧ a < s.i.toNat + size ∧ 0xFFF < a) →
        ∃ bad, (s.i.toNat ≤ bad ∧ bad < s.i.toNat + size ∧ 0xFFF < bad) ∧
          (∀ b, s.i.toNat ≤ b → 0xFFF < b → bad ≤ b) ∧
          exec i s = .next { s with fault := some ⟨.memOutOfRange bad, s.pc, s.opcode⟩ }

/-- Stores are seen by the next fetch: where FX55 stores over the word after itself, that word is what is fetched next,
the byte at the lower address being its high half (R63, R73, R346: sentences the spec marks as derived). -/
def Obligations.StoredWordIsFetchedNext : Prop :=
  ∀ (x k j : Nibble) (s : State), s.i.toNat + x.toNat ≤ 0xFFF → j.toNat = k.toNat + 1 → j.toNat ≤ x.toNat →
    s.i.toNat + k.toNat = s.pc.toNat + 2 →
      ∃ t w, exec (.storeRegs x) s = .next t ∧ t.fetch = some w ∧ w.toNat = 256 * (s.reg k).toNat + (s.reg j).toNat

/-! The host's operations -/

/-- `tickTimers` counts each timer down by one, never below 0, and touches nothing else; n ticks count n down (R310;
that it is defined while faulted is decision D18). -/
def Obligations.TicksCountDownToZero : Prop :=
  ∀ (s : State),
    ((s.tickTimers).dt.toNat = s.dt.toNat - 1 ∧ (s.tickTimers).st.toNat = s.st.toNat - 1 ∧
      { s.tickTimers with dt := s.dt, st := s.st } = s) ∧
    ∀ n : Nat, (State.tickTimers^[n] s).dt.toNat = s.dt.toNat - n ∧ (State.tickTimers^[n] s).st.toNat = s.st.toNat - n

/-- `initialize` gives every field the value of R340, whatever the state before (stack, redraw, opcode: decision D21; font
bytes: the parameter FONT), and State.reset is its result under the default parameters. -/
def Obligations.ColdStartValues : Prop :=
  State.reset.coldStart = State.reset ∧
  ∀ (s t : State), t = s.coldStart →
    (∀ d : Fin 80, t.byteAt d.val = s.cfg.font[d]) ∧ (∀ a, 80 ≤ a → t.byteAt a = 0#8) ∧
    (∀ r, t.reg r = 0#8) ∧ t.i = 0#16 ∧ t.pc = 0x200#16 ∧ t.sp.val = 0 ∧ (∀ k : Fin 16, t.stack[k] = 0#16) ∧
    t.dt = 0#8 ∧ t.st = 0#8 ∧ (∀ py px, t.pixel py px = 0#8) ∧ t.redraw = true ∧ (∀ k : Fin 16, t.key[k] = false) ∧
    t.opcode = 0#16 ∧ t.run = true ∧ t.fault = none

/-- `reset` keeps every byte from 0x200 up, gives the font back and zeroes the gap below 0x200, and is `initialize` in
every other field (R341; the gap by decision D20). -/
def Obligations.WarmResetKeepsTheProgram : Prop :=
  ∀ s : State,
    (∀ a, 0x200 ≤ a → s.warmReset.byteAt a = s.byteAt a) ∧
    (∀ a, a < 0x200 → s.warmReset.byteAt a = s.coldStart.byteAt a) ∧
    { s.warmReset with mem := [] } = s.coldStart

/-- The loader writes a ROM of at most 3584 bytes from 0x200 up and touches nothing else (R316). -/
def Obligations.LoaderWritesTheRom : Prop :=
  ∀ (s : State) (rom : List Byte), rom.length ≤ 4096 - 0x200 →
    ∃ t, s.loadRom rom = some t ∧ (∀ (k : Nat) (h : k < rom.length), t.byteAt (0x200 + k) = rom[k]) ∧
      sameBytesBut 0x200 rom.length s t ∧ { t with mem := s.mem } = s

/-- Input writes the sixteen keys, render clears redraw, stop clears run, and none touches anything else (R317, R318,
R319). -/
def Obligations.HostWritesOnlyItsOwnFields : Prop :=
  ∀ (s : State) (keys : Vector Bool 16),
    s.setKeys keys = { s with key := keys } ∧ s.rendered = { s with redraw := false } ∧ s.stop = { s with run := false }
end

