-- ==== Sys2Proof/Laws/State.lean ====
section
/-! SUPPORT. What each state update does to each field, one lemma per field per update, so that no proof unfolds a
record update. The first part is true by rfl; the second, for the updates that branch or repeat, follows from it. -/

namespace Sys2Proof.Machine

variable (s : State)

@[simp] theorem State.setReg_mem (x : Nibble) (b : Byte) : (s.setReg x b).mem = s.mem := rfl
@[simp] theorem State.setReg_v (x : Nibble) (b : Byte) : (s.setReg x b).v = s.v.set x.toNat b x.isLt := rfl
@[simp] theorem State.setReg_i (x : Nibble) (b : Byte) : (s.setReg x b).i = s.i := rfl
@[simp] theorem State.setReg_pc (x : Nibble) (b : Byte) : (s.setReg x b).pc = s.pc := rfl
@[simp] theorem State.setReg_stack (x : Nibble) (b : Byte) : (s.setReg x b).stack = s.stack := rfl
@[simp] theorem State.setReg_sp (x : Nibble) (b : Byte) : (s.setReg x b).sp = s.sp := rfl
@[simp] theorem State.setReg_dt (x : Nibble) (b : Byte) : (s.setReg x b).dt = s.dt := rfl
@[simp] theorem State.setReg_st (x : Nibble) (b : Byte) : (s.setReg x b).st = s.st := rfl
@[simp] theorem State.setReg_fb (x : Nibble) (b : Byte) : (s.setReg x b).fb = s.fb := rfl
@[simp] theorem State.setReg_redraw (x : Nibble) (b : Byte) : (s.setReg x b).redraw = s.redraw := rfl
@[simp] theorem State.setReg_key (x : Nibble) (b : Byte) : (s.setReg x b).key = s.key := rfl
@[simp] theorem State.setReg_opcode (x : Nibble) (b : Byte) : (s.setReg x b).opcode = s.opcode := rfl
@[simp] theorem State.setReg_run (x : Nibble) (b : Byte) : (s.setReg x b).run = s.run := rfl
@[simp] theorem State.setReg_fault (x : Nibble) (b : Byte) : (s.setReg x b).fault = s.fault := rfl
@[simp] theorem State.setReg_cfg (x : Nibble) (b : Byte) : (s.setReg x b).cfg = s.cfg := rfl
@[simp] theorem State.setReg_draws (x : Nibble) (b : Byte) : (s.setReg x b).draws = s.draws := rfl
@[simp] theorem State.setReg_byteAt (x : Nibble) (b : Byte) (p : Nat) : (s.setReg x b).byteAt p = s.byteAt p := rfl
@[simp] theorem State.setReg_pixel (x : Nibble) (b : Byte) (y : Fin 32) (c : Fin 64) : (s.setReg x b).pixel y c = s.pixel y c := rfl

@[simp] theorem State.setI_mem (w : Word) : (s.setI w).mem = s.mem := rfl
@[simp] theorem State.setI_v (w : Word) : (s.setI w).v = s.v := rfl
@[simp] theorem State.setI_i (w : Word) : (s.setI w).i = w := rfl
@[simp] theorem State.setI_pc (w : Word) : (s.setI w).pc = s.pc := rfl
@[simp] theorem State.setI_stack (w : Word) : (s.setI w).stack = s.stack := rfl
@[simp] theorem State.setI_sp (w : Word) : (s.setI w).sp = s.sp := rfl
@[simp] theorem State.setI_dt (w : Word) : (s.setI w).dt = s.dt := rfl
@[simp] theorem State.setI_st (w : Word) : (s.setI w).st = s.st := rfl
@[simp] theorem State.setI_fb (w : Word) : (s.setI w).fb = s.fb := rfl
@[simp] theorem State.setI_redraw (w : Word) : (s.setI w).redraw = s.redraw := rfl
@[simp] theorem State.setI_key (w : Word) : (s.setI w).key = s.key := rfl
@[simp] theorem State.setI_opcode (w : Word) : (s.setI w).opcode = s.opcode := rfl
@[simp] theorem State.setI_run (w : Word) : (s.setI w).run = s.run := rfl
@[simp] theorem State.setI_fault (w : Word) : (s.setI w).fault = s.fault := rfl
@[simp] theorem State.setI_cfg (w : Word) : (s.setI w).cfg = s.cfg := rfl
@[simp] theorem State.setI_draws (w : Word) : (s.setI w).draws = s.draws := rfl
@[simp] theorem State.setI_reg (w : Word) (r : Nibble) : (s.setI w).reg r = s.reg r := rfl
@[simp] theorem State.setI_byteAt (w : Word) (p : Nat) : (s.setI w).byteAt p = s.byteAt p := rfl
@[simp] theorem State.setI_pixel (w : Word) (y : Fin 32) (c : Fin 64) : (s.setI w).pixel y c = s.pixel y c := rfl

@[simp] theorem State.jump_mem (w : Word) : (s.jump w).mem = s.mem := rfl
@[simp] theorem State.jump_v (w : Word) : (s.jump w).v = s.v := rfl
@[simp] theorem State.jump_i (w : Word) : (s.jump w).i = s.i := rfl
@[simp] theorem State.jump_pc (w : Word) : (s.jump w).pc = w := rfl
@[simp] theorem State.jump_stack (w : Word) : (s.jump w).stack = s.stack := rfl
@[simp] theorem State.jump_sp (w : Word) : (s.jump w).sp = s.sp := rfl
@[simp] theorem State.jump_dt (w : Word) : (s.jump w).dt = s.dt := rfl
@[simp] theorem State.jump_st (w : Word) : (s.jump w).st = s.st := rfl
@[simp] theorem State.jump_fb (w : Word) : (s.jump w).fb = s.fb := rfl
@[simp] theorem State.jump_redraw (w : Word) : (s.jump w).redraw = s.redraw := rfl
@[simp] theorem State.jump_key (w : Word) : (s.jump w).key = s.key := rfl
@[simp] theorem State.jump_opcode (w : Word) : (s.jump w).opcode = s.opcode := rfl
@[simp] theorem State.jump_run (w : Word) : (s.jump w).run = s.run := rfl
@[simp] theorem State.jump_fault (w : Word) : (s.jump w).fault = s.fault := rfl
@[simp] theorem State.jump_cfg (w : Word) : (s.jump w).cfg = s.cfg := rfl
@[simp] theorem State.jump_draws (w : Word) : (s.jump w).draws = s.draws := rfl
@[simp] theorem State.jump_reg (w : Word) (r : Nibble) : (s.jump w).reg r = s.reg r := rfl
@[simp] theorem State.jump_byteAt (w : Word) (p : Nat) : (s.jump w).byteAt p = s.byteAt p := rfl
@[simp] theorem State.jump_pixel (w : Word) (y : Fin 32) (c : Fin 64) : (s.jump w).pixel y c = s.pixel y c := rfl

@[simp] theorem State.advance_mem : (s.advance).mem = s.mem := rfl
@[simp] theorem State.advance_v : (s.advance).v = s.v := rfl
@[simp] theorem State.advance_i : (s.advance).i = s.i := rfl
@[simp] theorem State.advance_pc : (s.advance).pc = s.pc + 2#16 := rfl
@[simp] theorem State.advance_stack : (s.advance).stack = s.stack := rfl
@[simp] theorem State.advance_sp : (s.advance).sp = s.sp := rfl
@[simp] theorem State.advance_dt : (s.advance).dt = s.dt := rfl
@[simp] theorem State.advance_st : (s.advance).st = s.st := rfl
@[simp] theorem State.advance_fb : (s.advance).fb = s.fb := rfl
@[simp] theorem State.advance_redraw : (s.advance).redraw = s.redraw := rfl
@[simp] theorem State.advance_key : (s.advance).key = s.key := rfl
@[simp] theorem State.advance_opcode : (s.advance).opcode = s.opcode := rfl
@[simp] theorem State.advance_run : (s.advance).run = s.run := rfl
@[simp] theorem State.advance_fault : (s.advance).fault = s.fault := rfl
@[simp] theorem State.advance_cfg : (s.advance).cfg = s.cfg := rfl
@[simp] theorem State.advance_draws : (s.advance).draws = s.draws := rfl
@[simp] theorem State.advance_reg (r : Nibble) : (s.advance).reg r = s.reg r := rfl
@[simp] theorem State.advance_byteAt (p : Nat) : (s.advance).byteAt p = s.byteAt p := rfl
@[simp] theorem State.advance_pixel (y : Fin 32) (c : Fin 64) : (s.advance).pixel y c = s.pixel y c := rfl

@[simp] theorem State.setDT_mem (b : Byte) : (s.setDT b).mem = s.mem := rfl
@[simp] theorem State.setDT_v (b : Byte) : (s.setDT b).v = s.v := rfl
@[simp] theorem State.setDT_i (b : Byte) : (s.setDT b).i = s.i := rfl
@[simp] theorem State.setDT_pc (b : Byte) : (s.setDT b).pc = s.pc := rfl
@[simp] theorem State.setDT_stack (b : Byte) : (s.setDT b).stack = s.stack := rfl
@[simp] theorem State.setDT_sp (b : Byte) : (s.setDT b).sp = s.sp := rfl
@[simp] theorem State.setDT_dt (b : Byte) : (s.setDT b).dt = b := rfl
@[simp] theorem State.setDT_st (b : Byte) : (s.setDT b).st = s.st := rfl
@[simp] theorem State.setDT_fb (b : Byte) : (s.setDT b).fb = s.fb := rfl
@[simp] theorem State.setDT_redraw (b : Byte) : (s.setDT b).redraw = s.redraw := rfl
@[simp] theorem State.setDT_key (b : Byte) : (s.setDT b).key = s.key := rfl
@[simp] theorem State.setDT_opcode (b : Byte) : (s.setDT b).opcode = s.opcode := rfl
@[simp] theorem State.setDT_run (b : Byte) : (s.setDT b).run = s.run := rfl
@[simp] theorem State.setDT_fault (b : Byte) : (s.setDT b).fault = s.fault := rfl
@[simp] theorem State.setDT_cfg (b : Byte) : (s.setDT b).cfg = s.cfg := rfl
@[simp] theorem State.setDT_draws (b : Byte) : (s.setDT b).draws = s.draws := rfl
@[simp] theorem State.setDT_reg (b : Byte) (r : Nibble) : (s.setDT b).reg r = s.reg r := rfl
@[simp] theorem State.setDT_byteAt (b : Byte) (p : Nat) : (s.setDT b).byteAt p = s.byteAt p := rfl
@[simp] theorem State.setDT_pixel (b : Byte) (y : Fin 32) (c : Fin 64) : (s.setDT b).pixel y c = s.pixel y c := rfl

@[simp] theorem State.setST_mem (b : Byte) : (s.setST b).mem = s.mem := rfl
@[simp] theorem State.setST_v (b : Byte) : (s.setST b).v = s.v := rfl
@[simp] theorem State.setST_i (b : Byte) : (s.setST b).i = s.i := rfl
@[simp] theorem State.setST_pc (b : Byte) : (s.setST b).pc = s.pc := rfl
@[simp] theorem State.setST_stack (b : Byte) : (s.setST b).stack = s.stack := rfl
@[simp] theorem State.setST_sp (b : Byte) : (s.setST b).sp = s.sp := rfl
@[simp] theorem State.setST_dt (b : Byte) : (s.setST b).dt = s.dt := rfl
@[simp] theorem State.setST_st (b : Byte) : (s.setST b).st = b := rfl
@[simp] theorem State.setST_fb (b : Byte) : (s.setST b).fb = s.fb := rfl
@[simp] theorem State.setST_redraw (b : Byte) : (s.setST b).redraw = s.redraw := rfl
@[simp] theorem State.setST_key (b : Byte) : (s.setST b).key = s.key := rfl
@[simp] theorem State.setST_opcode (b : Byte) : (s.setST b).opcode = s.opcode := rfl
@[simp] theorem State.setST_run (b : Byte) : (s.setST b).run = s.run := rfl
@[simp] theorem State.setST_fault (b : Byte) : (s.setST b).fault = s.fault := rfl
@[simp] theorem State.setST_cfg (b : Byte) : (s.setST b).cfg = s.cfg := rfl
@[simp] theorem State.setST_draws (b : Byte) : (s.setST b).draws = s.draws := rfl
@[simp] theorem State.setST_reg (b : Byte) (r : Nibble) : (s.setST b).reg r = s.reg r := rfl
@[simp] theorem State.setST_byteAt (b : Byte) (p : Nat) : (s.setST b).byteAt p = s.byteAt p := rfl
@[simp] theorem State.setST_pixel (b : Byte) (y : Fin 32) (c : Fin 64) : (s.setST b).pixel y c = s.pixel y c := rfl

@[simp] theorem State.show_mem (f : Framebuffer) : (s.show f).mem = s.mem := rfl
@[simp] theorem State.show_v (f : Framebuffer) : (s.show f).v = s.v := rfl
@[simp] theorem State.show_i (f : Framebuffer) : (s.show f).i = s.i := rfl
@[simp] theorem State.show_pc (f : Framebuffer) : (s.show f).pc = s.pc := rfl
@[simp] theorem State.show_stack (f : Framebuffer) : (s.show f).stack = s.stack := rfl
@[simp] theorem State.show_sp (f : Framebuffer) : (s.show f).sp = s.sp := rfl
@[simp] theorem State.show_dt (f : Framebuffer) : (s.show f).dt = s.dt := rfl
@[simp] theorem State.show_st (f : Framebuffer) : (s.show f).st = s.st := rfl
@[simp] theorem State.show_fb (f : Framebuffer) : (s.show f).fb = f := rfl
@[simp] theorem State.show_redraw (f : Framebuffer) : (s.show f).redraw = true := rfl
@[simp] theorem State.show_key (f : Framebuffer) : (s.show f).key = s.key := rfl
@[simp] theorem State.show_opcode (f : Framebuffer) : (s.show f).opcode = s.opcode := rfl
@[simp] theorem State.show_run (f : Framebuffer) : (s.show f).run = s.run := rfl
@[simp] theorem State.show_fault (f : Framebuffer) : (s.show f).fault = s.fault := rfl
@[simp] theorem State.show_cfg (f : Framebuffer) : (s.show f).cfg = s.cfg := rfl
@[simp] theorem State.show_draws (f : Framebuffer) : (s.show f).draws = s.draws := rfl
@[simp] theorem State.show_reg (f : Framebuffer) (r : Nibble) : (s.show f).reg r = s.reg r := rfl
@[simp] theorem State.show_byteAt (f : Framebuffer) (p : Nat) : (s.show f).byteAt p = s.byteAt p := rfl

@[simp] theorem State.raise_mem (e : FaultReason) : (s.raise e).mem = s.mem := rfl
@[simp] theorem State.raise_v (e : FaultReason) : (s.raise e).v = s.v := rfl
@[simp] theorem State.raise_i (e : FaultReason) : (s.raise e).i = s.i := rfl
@[simp] theorem State.raise_pc (e : FaultReason) : (s.raise e).pc = s.pc := rfl
@[simp] theorem State.raise_stack (e : FaultReason) : (s.raise e).stack = s.stack := rfl
@[simp] theorem State.raise_sp (e : FaultReason) : (s.raise e).sp = s.sp := rfl
@[simp] theorem State.raise_dt (e : FaultReason) : (s.raise e).dt = s.dt := rfl
@[simp] theorem State.raise_st (e : FaultReason) : (s.raise e).st = s.st := rfl
@[simp] theorem State.raise_fb (e : FaultReason) : (s.raise e).fb = s.fb := rfl
@[simp] theorem State.raise_redraw (e : FaultReason) : (s.raise e).redraw = s.redraw := rfl
@[simp] theorem State.raise_key (e : FaultReason) : (s.raise e).key = s.key := rfl
@[simp] theorem State.raise_opcode (e : FaultReason) : (s.raise e).opcode = s.opcode := rfl
@[simp] theorem State.raise_run (e : FaultReason) : (s.raise e).run = s.run := rfl
@[simp] theorem State.raise_fault (e : FaultReason) : (s.raise e).fault = some ⟨e, s.pc, s.opcode⟩ := rfl
@[simp] theorem State.raise_cfg (e : FaultReason) : (s.raise e).cfg = s.cfg := rfl
@[simp] theorem State.raise_draws (e : FaultReason) : (s.raise e).draws = s.draws := rfl
@[simp] theorem State.raise_reg (e : FaultReason) (r : Nibble) : (s.raise e).reg r = s.reg r := rfl
@[simp] theorem State.raise_byteAt (e : FaultReason) (p : Nat) : (s.raise e).byteAt p = s.byteAt p := rfl
@[simp] theorem State.raise_pixel (e : FaultReason) (y : Fin 32) (c : Fin 64) : (s.raise e).pixel y c = s.pixel y c := rfl

@[simp] theorem State.setOpcode_mem (w : Word) : (s.setOpcode w).mem = s.mem := rfl
@[simp] theorem State.setOpcode_v (w : Word) : (s.setOpcode w).v = s.v := rfl
@[simp] theorem State.setOpcode_i (w : Word) : (s.setOpcode w).i = s.i := rfl
@[simp] theorem State.setOpcode_pc (w : Word) : (s.setOpcode w).pc = s.pc := rfl
@[simp] theorem State.setOpcode_stack (w : Word) : (s.setOpcode w).stack = s.stack := rfl
@[simp] theorem State.setOpcode_sp (w : Word) : (s.setOpcode w).sp = s.sp := rfl
@[simp] theorem State.setOpcode_dt (w : Word) : (s.setOpcode w).dt = s.dt := rfl
@[simp] theorem State.setOpcode_st (w : Word) : (s.setOpcode w).st = s.st := rfl
@[simp] theorem State.setOpcode_fb (w : Word) : (s.setOpcode w).fb = s.fb := rfl
@[simp] theorem State.setOpcode_redraw (w : Word) : (s.setOpcode w).redraw = s.redraw := rfl
@[simp] theorem State.setOpcode_key (w : Word) : (s.setOpcode w).key = s.key := rfl
@[simp] theorem State.setOpcode_opcode (w : Word) : (s.setOpcode w).opcode = w := rfl
@[simp] theorem State.setOpcode_run (w : Word) : (s.setOpcode w).run = s.run := rfl
@[simp] theorem State.setOpcode_fault (w : Word) : (s.setOpcode w).fault = s.fault := rfl
@[simp] theorem State.setOpcode_cfg (w : Word) : (s.setOpcode w).cfg = s.cfg := rfl
@[simp] theorem State.setOpcode_draws (w : Word) : (s.setOpcode w).draws = s.draws := rfl
@[simp] theorem State.setOpcode_reg (w : Word) (r : Nibble) : (s.setOpcode w).reg r = s.reg r := rfl
@[simp] theorem State.setOpcode_byteAt (w : Word) (p : Nat) : (s.setOpcode w).byteAt p = s.byteAt p := rfl
@[simp] theorem State.setOpcode_pixel (w : Word) (y : Fin 32) (c : Fin 64) : (s.setOpcode w).pixel y c = s.pixel y c := rfl

@[simp] theorem State.drawRng_mem : (s.drawRng.2).mem = s.mem := rfl
@[simp] theorem State.drawRng_v : (s.drawRng.2).v = s.v := rfl
@[simp] theorem State.drawRng_i : (s.drawRng.2).i = s.i := rfl
@[simp] theorem State.drawRng_pc : (s.drawRng.2).pc = s.pc := rfl
@[simp] theorem State.drawRng_stack : (s.drawRng.2).stack = s.stack := rfl
@[simp] theorem State.drawRng_sp : (s.drawRng.2).sp = s.sp := rfl
@[simp] theorem State.drawRng_dt : (s.drawRng.2).dt = s.dt := rfl
@[simp] theorem State.drawRng_st : (s.drawRng.2).st = s.st := rfl
@[simp] theorem State.drawRng_fb : (s.drawRng.2).fb = s.fb := rfl
@[simp] theorem State.drawRng_redraw : (s.drawRng.2).redraw = s.redraw := rfl
@[simp] theorem State.drawRng_key : (s.drawRng.2).key = s.key := rfl
@[simp] theorem State.drawRng_opcode : (s.drawRng.2).opcode = s.opcode := rfl
@[simp] theorem State.drawRng_run : (s.drawRng.2).run = s.run := rfl
@[simp] theorem State.drawRng_fault : (s.drawRng.2).fault = s.fault := rfl
@[simp] theorem State.drawRng_cfg : (s.drawRng.2).cfg = s.cfg := rfl
@[simp] theorem State.drawRng_draws : (s.drawRng.2).draws = s.draws + 1 := rfl
@[simp] theorem State.drawRng_reg (r : Nibble) : (s.drawRng.2).reg r = s.reg r := rfl
@[simp] theorem State.drawRng_byteAt (p : Nat) : (s.drawRng.2).byteAt p = s.byteAt p := rfl
@[simp] theorem State.drawRng_pixel (y : Fin 32) (c : Fin 64) : (s.drawRng.2).pixel y c = s.pixel y c := rfl

@[simp] theorem State.tickTimers_mem : (s.tickTimers).mem = s.mem := rfl
@[simp] theorem State.tickTimers_v : (s.tickTimers).v = s.v := rfl
@[simp] theorem State.tickTimers_i : (s.tickTimers).i = s.i := rfl
@[simp] theorem State.tickTimers_pc : (s.tickTimers).pc = s.pc := rfl
@[simp] theorem State.tickTimers_stack : (s.tickTimers).stack = s.stack := rfl
@[simp] theorem State.tickTimers_sp : (s.tickTimers).sp = s.sp := rfl
@[simp] theorem State.tickTimers_dt : (s.tickTimers).dt = tickDown s.dt := rfl
@[simp] theorem State.tickTimers_st : (s.tickTimers).st = tickDown s.st := rfl
@[simp] theorem State.tickTimers_fb : (s.tickTimers).fb = s.fb := rfl
@[simp] theorem State.tickTimers_redraw : (s.tickTimers).redraw = s.redraw := rfl
@[simp] theorem State.tickTimers_key : (s.tickTimers).key = s.key := rfl
@[simp] theorem State.tickTimers_opcode : (s.tickTimers).opcode = s.opcode := rfl
@[simp] theorem State.tickTimers_run : (s.tickTimers).run = s.run := rfl
@[simp] theorem State.tickTimers_fault : (s.tickTimers).fault = s.fault := rfl
@[simp] theorem State.tickTimers_cfg : (s.tickTimers).cfg = s.cfg := rfl
@[simp] theorem State.tickTimers_draws : (s.tickTimers).draws = s.draws := rfl
@[simp] theorem State.tickTimers_reg (r : Nibble) : (s.tickTimers).reg r = s.reg r := rfl
@[simp] theorem State.tickTimers_byteAt (p : Nat) : (s.tickTimers).byteAt p = s.byteAt p := rfl
@[simp] theorem State.tickTimers_pixel (y : Fin 32) (c : Fin 64) : (s.tickTimers).pixel y c = s.pixel y c := rfl

@[simp] theorem State.setKeys_mem (k : Vector Bool 16) : (s.setKeys k).mem = s.mem := rfl
@[simp] theorem State.setKeys_v (k : Vector Bool 16) : (s.setKeys k).v = s.v := rfl
@[simp] theorem State.setKeys_i (k : Vector Bool 16) : (s.setKeys k).i = s.i := rfl
@[simp] theorem State.setKeys_pc (k : Vector Bool 16) : (s.setKeys k).pc = s.pc := rfl
@[simp] theorem State.setKeys_stack (k : Vector Bool 16) : (s.setKeys k).stack = s.stack := rfl
@[simp] theorem State.setKeys_sp (k : Vector Bool 16) : (s.setKeys k).sp = s.sp := rfl
@[simp] theorem State.setKeys_dt (k : Vector Bool 16) : (s.setKeys k).dt = s.dt := rfl
@[simp] theorem State.setKeys_st (k : Vector Bool 16) : (s.setKeys k).st = s.st := rfl
@[simp] theorem State.setKeys_fb (k : Vector Bool 16) : (s.setKeys k).fb = s.fb := rfl
@[simp] theorem State.setKeys_redraw (k : Vector Bool 16) : (s.setKeys k).redraw = s.redraw := rfl
@[simp] theorem State.setKeys_key (k : Vector Bool 16) : (s.setKeys k).key = k := rfl
@[simp] theorem State.setKeys_opcode (k : Vector Bool 16) : (s.setKeys k).opcode = s.opcode := rfl
@[simp] theorem State.setKeys_run (k : Vector Bool 16) : (s.setKeys k).run = s.run := rfl
@[simp] theorem State.setKeys_fault (k : Vector Bool 16) : (s.setKeys k).fault = s.fault := rfl
@[simp] theorem State.setKeys_cfg (k : Vector Bool 16) : (s.setKeys k).cfg = s.cfg := rfl
@[simp] theorem State.setKeys_draws (k : Vector Bool 16) : (s.setKeys k).draws = s.draws := rfl
@[simp] theorem State.setKeys_reg (k : Vector Bool 16) (r : Nibble) : (s.setKeys k).reg r = s.reg r := rfl
@[simp] theorem State.setKeys_byteAt (k : Vector Bool 16) (p : Nat) : (s.setKeys k).byteAt p = s.byteAt p := rfl
@[simp] theorem State.setKeys_pixel (k : Vector Bool 16) (y : Fin 32) (c : Fin 64) : (s.setKeys k).pixel y c = s.pixel y c := rfl

@[simp] theorem State.rendered_mem : (s.rendered).mem = s.mem := rfl
@[simp] theorem State.rendered_v : (s.rendered).v = s.v := rfl
@[simp] theorem State.rendered_i : (s.rendered).i = s.i := rfl
@[simp] theorem State.rendered_pc : (s.rendered).pc = s.pc := rfl
@[simp] theorem State.rendered_stack : (s.rendered).stack = s.stack := rfl
@[simp] theorem State.rendered_sp : (s.rendered).sp = s.sp := rfl
@[simp] theorem State.rendered_dt : (s.rendered).dt = s.dt := rfl
@[simp] theorem State.rendered_st : (s.rendered).st = s.st := rfl
@[simp] theorem State.rendered_fb : (s.rendered).fb = s.fb := rfl
@[simp] theorem State.rendered_redraw : (s.rendered).redraw = false := rfl
@[simp] theorem State.rendered_key : (s.rendered).key = s.key := rfl
@[simp] theorem State.rendered_opcode : (s.rendered).opcode = s.opcode := rfl
@[simp] theorem State.rendered_run : (s.rendered).run = s.run := rfl
@[simp] theorem State.rendered_fault : (s.rendered).fault = s.fault := rfl
@[simp] theorem State.rendered_cfg : (s.rendered).cfg = s.cfg := rfl
@[simp] theorem State.rendered_draws : (s.rendered).draws = s.draws := rfl
@[simp] theorem State.rendered_reg (r : Nibble) : (s.rendered).reg r = s.reg r := rfl
@[simp] theorem State.rendered_byteAt (p : Nat) : (s.rendered).byteAt p = s.byteAt p := rfl
@[simp] theorem State.rendered_pixel (y : Fin 32) (c : Fin 64) : (s.rendered).pixel y c = s.pixel y c := rfl

@[simp] theorem State.stop_mem : (s.stop).mem = s.mem := rfl
@[simp] theorem State.stop_v : (s.stop).v = s.v := rfl
@[simp] theorem State.stop_i : (s.stop).i = s.i := rfl
@[simp] theorem State.stop_pc : (s.stop).pc = s.pc := rfl
@[simp] theorem State.stop_stack : (s.stop).stack = s.stack := rfl
@[simp] theorem State.stop_sp : (s.stop).sp = s.sp := rfl
@[simp] theorem State.stop_dt : (s.stop).dt = s.dt := rfl
@[simp] theorem State.stop_st : (s.stop).st = s.st := rfl
@[simp] theorem State.stop_fb : (s.stop).fb = s.fb := rfl
@[simp] theorem State.stop_redraw : (s.stop).redraw = s.redraw := rfl
@[simp] theorem State.stop_key : (s.stop).key = s.key := rfl
@[simp] theorem State.stop_opcode : (s.stop).opcode = s.opcode := rfl
@[simp] theorem State.stop_run : (s.stop).run = false := rfl
@[simp] theorem State.stop_fault : (s.stop).fault = s.fault := rfl
@[simp] theorem State.stop_cfg : (s.stop).cfg = s.cfg := rfl
@[simp] theorem State.stop_draws : (s.stop).draws = s.draws := rfl
@[simp] theorem State.stop_reg (r : Nibble) : (s.stop).reg r = s.reg r := rfl
@[simp] theorem State.stop_byteAt (p : Nat) : (s.stop).byteAt p = s.byteAt p := rfl
@[simp] theorem State.stop_pixel (y : Fin 32) (c : Fin 64) : (s.stop).pixel y c = s.pixel y c := rfl

/-! Updates that branch or repeat -/

@[simp] theorem State.setByte_v (a : Nat) (x : Byte) : (s.setByte a x).v = s.v := by
  unfold State.setByte; split <;> rfl
@[simp] theorem State.setByte_i (a : Nat) (x : Byte) : (s.setByte a x).i = s.i := by
  unfold State.setByte; split <;> rfl
@[simp] theorem State.setByte_pc (a : Nat) (x : Byte) : (s.setByte a x).pc = s.pc := by
  unfold State.setByte; split <;> rfl
@[simp] theorem State.setByte_stack (a : Nat) (x : Byte) : (s.setByte a x).stack = s.stack := by
  unfold State.setByte; split <;> rfl
@[simp] theorem State.setByte_sp (a : Nat) (x : Byte) : (s.setByte a x).sp = s.sp := by
  unfold State.setByte; split <;> rfl
@[simp] theorem State.setByte_dt (a : Nat) (x : Byte) : (s.setByte a x).dt = s.dt := by
  unfold State.setByte; split <;> rfl
@[simp] theorem State.setByte_st (a : Nat) (x : Byte) : (s.setByte a x).st = s.st := by
  unfold State.setByte; split <;> rfl
@[simp] theorem State.setByte_fb (a : Nat) (x : Byte) : (s.setByte a x).fb = s.fb := by
  unfold State.setByte; split <;> rfl
@[simp] theorem State.setByte_redraw (a : Nat) (x : Byte) : (s.setByte a x).redraw = s.redraw := by
  unfold State.setByte; split <;> rfl
@[simp] theorem State.setByte_key (a : Nat) (x : Byte) : (s.setByte a x).key = s.key := by
  unfold State.setByte; split <;> rfl
@[simp] theorem State.setByte_opcode (a : Nat) (x : Byte) : (s.setByte a x).opcode = s.opcode := by
  unfold State.setByte; split <;> rfl
@[simp] theorem State.setByte_run (a : Nat) (x : Byte) : (s.setByte a x).run = s.run := by
  unfold State.setByte; split <;> rfl
@[simp] theorem State.setByte_fault (a : Nat) (x : Byte) : (s.setByte a x).fault = s.fault := by
  unfold State.setByte; split <;> rfl
@[simp] theorem State.setByte_cfg (a : Nat) (x : Byte) : (s.setByte a x).cfg = s.cfg := by
  unfold State.setByte; split <;> rfl
@[simp] theorem State.setByte_draws (a : Nat) (x : Byte) : (s.setByte a x).draws = s.draws := by
  unfold State.setByte; split <;> rfl

@[simp] theorem State.setBytes_v (a : Nat) (xs : List Byte) : (s.setBytes a xs).v = s.v := by
  induction xs generalizing s a with
  | nil => rfl
  | cons x xs ih => simp [State.setBytes, ih]
@[simp] theorem State.setBytes_i (a : Nat) (xs : List Byte) : (s.setBytes a xs).i = s.i := by
  induction xs generalizing s a with
  | nil => rfl
  | cons x xs ih => simp [State.setBytes, ih]
@[simp] theorem State.setBytes_pc (a : Nat) (xs : List Byte) : (s.setBytes a xs).pc = s.pc := by
  induction xs generalizing s a with
  | nil => rfl
  | cons x xs ih => simp [State.setBytes, ih]
@[simp] theorem State.setBytes_stack (a : Nat) (xs : List Byte) : (s.setBytes a xs).stack = s.stack := by
  induction xs generalizing s a with
  | nil => rfl
  | cons x xs ih => simp [State.setBytes, ih]
@[simp] theorem State.setBytes_sp (a : Nat) (xs : List Byte) : (s.setBytes a xs).sp = s.sp := by
  induction xs generalizing s a with
  | nil => rfl
  | cons x xs ih => simp [State.setBytes, ih]
@[simp] theorem State.setBytes_dt (a : Nat) (xs : List Byte) : (s.setBytes a xs).dt = s.dt := by
  induction xs generalizing s a with
  | nil => rfl
  | cons x xs ih => simp [State.setBytes, ih]
@[simp] theorem State.setBytes_st (a : Nat) (xs : List Byte) : (s.setBytes a xs).st = s.st := by
  induction xs generalizing s a with
  | nil => rfl
  | cons x xs ih => simp [State.setBytes, ih]
@[simp] theorem State.setBytes_fb (a : Nat) (xs : List Byte) : (s.setBytes a xs).fb = s.fb := by
  induction xs generalizing s a with
  | nil => rfl
  | cons x xs ih => simp [State.setBytes, ih]
@[simp] theorem State.setBytes_redraw (a : Nat) (xs : List Byte) : (s.setBytes a xs).redraw = s.redraw := by
  induction xs generalizing s a with
  | nil => rfl
  | cons x xs ih => simp [State.setBytes, ih]
@[simp] theorem State.setBytes_key (a : Nat) (xs : List Byte) : (s.setBytes a xs).key = s.key := by
  induction xs generalizing s a with
  | nil => rfl
  | cons x xs ih => simp [State.setBytes, ih]
@[simp] theorem State.setBytes_opcode (a : Nat) (xs : List Byte) : (s.setBytes a xs).opcode = s.opcode := by
  induction xs generalizing s a with
  | nil => rfl
  | cons x xs ih => simp [State.setBytes, ih]
@[simp] theorem State.setBytes_run (a : Nat) (xs : List Byte) : (s.setBytes a xs).run = s.run := by
  induction xs generalizing s a with
  | nil => rfl
  | cons x xs ih => simp [State.setBytes, ih]
@[simp] theorem State.setBytes_fault (a : Nat) (xs : List Byte) : (s.setBytes a xs).fault = s.fault := by
  induction xs generalizing s a with
  | nil => rfl
  | cons x xs ih => simp [State.setBytes, ih]
@[simp] theorem State.setBytes_cfg (a : Nat) (xs : List Byte) : (s.setBytes a xs).cfg = s.cfg := by
  induction xs generalizing s a with
  | nil => rfl
  | cons x xs ih => simp [State.setBytes, ih]
@[simp] theorem State.setBytes_draws (a : Nat) (xs : List Byte) : (s.setBytes a xs).draws = s.draws := by
  induction xs generalizing s a with
  | nil => rfl
  | cons x xs ih => simp [State.setBytes, ih]

@[simp] theorem State.loadFrom_mem (a n : Nat) : (s.loadFrom a n).mem = s.mem := by
  induction n with
  | zero => rfl
  | succ k ih => simp [State.loadFrom, ih]
@[simp] theorem State.loadFrom_i (a n : Nat) : (s.loadFrom a n).i = s.i := by
  induction n with
  | zero => rfl
  | succ k ih => simp [State.loadFrom, ih]
@[simp] theorem State.loadFrom_pc (a n : Nat) : (s.loadFrom a n).pc = s.pc := by
  induction n with
  | zero => rfl
  | succ k ih => simp [State.loadFrom, ih]
@[simp] theorem State.loadFrom_stack (a n : Nat) : (s.loadFrom a n).stack = s.stack := by
  induction n with
  | zero => rfl
  | succ k ih => simp [State.loadFrom, ih]
@[simp] theorem State.loadFrom_sp (a n : Nat) : (s.loadFrom a n).sp = s.sp := by
  induction n with
  | zero => rfl
  | succ k ih => simp [State.loadFrom, ih]
@[simp] theorem State.loadFrom_dt (a n : Nat) : (s.loadFrom a n).dt = s.dt := by
  induction n with
  | zero => rfl
  | succ k ih => simp [State.loadFrom, ih]
@[simp] theorem State.loadFrom_st (a n : Nat) : (s.loadFrom a n).st = s.st := by
  induction n with
  | zero => rfl
  | succ k ih => simp [State.loadFrom, ih]
@[simp] theorem State.loadFrom_fb (a n : Nat) : (s.loadFrom a n).fb = s.fb := by
  induction n with
  | zero => rfl
  | succ k ih => simp [State.loadFrom, ih]
@[simp] theorem State.loadFrom_redraw (a n : Nat) : (s.loadFrom a n).redraw = s.redraw := by
  induction n with
  | zero => rfl
  | succ k ih => simp [State.loadFrom, ih]
@[simp] theorem State.loadFrom_key (a n : Nat) : (s.loadFrom a n).key = s.key := by
  induction n with
  | zero => rfl
  | succ k ih => simp [State.loadFrom, ih]
@[simp] theorem State.loadFrom_opcode (a n : Nat) : (s.loadFrom a n).opcode = s.opcode := by
  induction n with
  | zero => rfl
  | succ k ih => simp [State.loadFrom, ih]
@[simp] theorem State.loadFrom_run (a n : Nat) : (s.loadFrom a n).run = s.run := by
  induction n with
  | zero => rfl
  | succ k ih => simp [State.loadFrom, ih]
@[simp] theorem State.loadFrom_fault (a n : Nat) : (s.loadFrom a n).fault = s.fault := by
  induction n with
  | zero => rfl
  | succ k ih => simp [State.loadFrom, ih]
@[simp] theorem State.loadFrom_cfg (a n : Nat) : (s.loadFrom a n).cfg = s.cfg := by
  induction n with
  | zero => rfl
  | succ k ih => simp [State.loadFrom, ih]
@[simp] theorem State.loadFrom_draws (a n : Nat) : (s.loadFrom a n).draws = s.draws := by
  induction n with
  | zero => rfl
  | succ k ih => simp [State.loadFrom, ih]

@[simp] theorem State.skipIf_mem (c : Bool) : (s.skipIf c).mem = s.mem := by
  unfold State.skipIf; split <;> rfl
@[simp] theorem State.skipIf_v (c : Bool) : (s.skipIf c).v = s.v := by
  unfold State.skipIf; split <;> rfl
@[simp] theorem State.skipIf_i (c : Bool) : (s.skipIf c).i = s.i := by
  unfold State.skipIf; split <;> rfl
@[simp] theorem State.skipIf_stack (c : Bool) : (s.skipIf c).stack = s.stack := by
  unfold State.skipIf; split <;> rfl
@[simp] theorem State.skipIf_sp (c : Bool) : (s.skipIf c).sp = s.sp := by
  unfold State.skipIf; split <;> rfl
@[simp] theorem State.skipIf_dt (c : Bool) : (s.skipIf c).dt = s.dt := by
  unfold State.skipIf; split <;> rfl
@[simp] theorem State.skipIf_st (c : Bool) : (s.skipIf c).st = s.st := by
  unfold State.skipIf; split <;> rfl
@[simp] theorem State.skipIf_fb (c : Bool) : (s.skipIf c).fb = s.fb := by
  unfold State.skipIf; split <;> rfl
@[simp] theorem State.skipIf_redraw (c : Bool) : (s.skipIf c).redraw = s.redraw := by
  unfold State.skipIf; split <;> rfl
@[simp] theorem State.skipIf_key (c : Bool) : (s.skipIf c).key = s.key := by
  unfold State.skipIf; split <;> rfl
@[simp] theorem State.skipIf_opcode (c : Bool) : (s.skipIf c).opcode = s.opcode := by
  unfold State.skipIf; split <;> rfl
@[simp] theorem State.skipIf_run (c : Bool) : (s.skipIf c).run = s.run := by
  unfold State.skipIf; split <;> rfl
@[simp] theorem State.skipIf_fault (c : Bool) : (s.skipIf c).fault = s.fault := by
  unfold State.skipIf; split <;> rfl
@[simp] theorem State.skipIf_cfg (c : Bool) : (s.skipIf c).cfg = s.cfg := by
  unfold State.skipIf; split <;> rfl
@[simp] theorem State.skipIf_draws (c : Bool) : (s.skipIf c).draws = s.draws := by
  unfold State.skipIf; split <;> rfl

@[simp] theorem State.skipIf_pc (c : Bool) : (s.skipIf c).pc = if c then s.pc + 4#16 else s.pc + 2#16 := by
  unfold State.skipIf; split <;> rfl

@[simp] theorem State.writeRF_mem (x : Nibble) (b f : Byte) : (s.writeRF x b f).mem = s.mem := by
  unfold State.writeRF; split <;> rfl
@[simp] theorem State.writeRF_i (x : Nibble) (b f : Byte) : (s.writeRF x b f).i = s.i := by
  unfold State.writeRF; split <;> rfl
@[simp] theorem State.writeRF_pc (x : Nibble) (b f : Byte) : (s.writeRF x b f).pc = s.pc := by
  unfold State.writeRF; split <;> rfl
@[simp] theorem State.writeRF_stack (x : Nibble) (b f : Byte) : (s.writeRF x b f).stack = s.stack := by
  unfold State.writeRF; split <;> rfl
@[simp] theorem State.writeRF_sp (x : Nibble) (b f : Byte) : (s.writeRF x b f).sp = s.sp := by
  unfold State.writeRF; split <;> rfl
@[simp] theorem State.writeRF_dt (x : Nibble) (b f : Byte) : (s.writeRF x b f).dt = s.dt := by
  unfold State.writeRF; split <;> rfl
@[simp] theorem State.writeRF_st (x : Nibble) (b f : Byte) : (s.writeRF x b f).st = s.st := by
  unfold State.writeRF; split <;> rfl
@[simp] theorem State.writeRF_fb (x : Nibble) (b f : Byte) : (s.writeRF x b f).fb = s.fb := by
  unfold State.writeRF; split <;> rfl
@[simp] theorem State.writeRF_redraw (x : Nibble) (b f : Byte) : (s.writeRF x b f).redraw = s.redraw := by
  unfold State.writeRF; split <;> rfl
@[simp] theorem State.writeRF_key (x : Nibble) (b f : Byte) : (s.writeRF x b f).key = s.key := by
  unfold State.writeRF; split <;> rfl
@[simp] theorem State.writeRF_opcode (x : Nibble) (b f : Byte) : (s.writeRF x b f).opcode = s.opcode := by
  unfold State.writeRF; split <;> rfl
@[simp] theorem State.writeRF_run (x : Nibble) (b f : Byte) : (s.writeRF x b f).run = s.run := by
  unfold State.writeRF; split <;> rfl
@[simp] theorem State.writeRF_fault (x : Nibble) (b f : Byte) : (s.writeRF x b f).fault = s.fault := by
  unfold State.writeRF; split <;> rfl
@[simp] theorem State.writeRF_cfg (x : Nibble) (b f : Byte) : (s.writeRF x b f).cfg = s.cfg := by
  unfold State.writeRF; split <;> rfl
@[simp] theorem State.writeRF_draws (x : Nibble) (b f : Byte) : (s.writeRF x b f).draws = s.draws := by
  unfold State.writeRF; split <;> rfl

@[simp] theorem State.setByte_reg (a : Nat) (x : Byte) (r : Nibble) : (s.setByte a x).reg r = s.reg r := by
  simp [State.reg]
@[simp] theorem State.setByte_pixel (a : Nat) (x : Byte) (y : Fin 32) (c : Fin 64) : (s.setByte a x).pixel y c = s.pixel y c := by
  simp [State.pixel]
@[simp] theorem State.setBytes_reg (a : Nat) (xs : List Byte) (r : Nibble) : (s.setBytes a xs).reg r = s.reg r := by
  simp [State.reg]
@[simp] theorem State.setBytes_pixel (a : Nat) (xs : List Byte) (y : Fin 32) (c : Fin 64) : (s.setBytes a xs).pixel y c = s.pixel y c := by
  simp [State.pixel]
@[simp] theorem State.loadFrom_byteAt (a n : Nat) (p : Nat) : (s.loadFrom a n).byteAt p = s.byteAt p := by
  simp [State.byteAt]
@[simp] theorem State.loadFrom_pixel (a n : Nat) (y : Fin 32) (c : Fin 64) : (s.loadFrom a n).pixel y c = s.pixel y c := by
  simp [State.pixel]
@[simp] theorem State.skipIf_reg (b : Bool) (r : Nibble) : (s.skipIf b).reg r = s.reg r := by
  simp [State.reg]
@[simp] theorem State.skipIf_byteAt (b : Bool) (p : Nat) : (s.skipIf b).byteAt p = s.byteAt p := by
  simp [State.byteAt]
@[simp] theorem State.skipIf_pixel (b : Bool) (y : Fin 32) (c : Fin 64) : (s.skipIf b).pixel y c = s.pixel y c := by
  simp [State.pixel]
@[simp] theorem State.writeRF_byteAt (x : Nibble) (b f : Byte) (p : Nat) : (s.writeRF x b f).byteAt p = s.byteAt p := by
  simp [State.byteAt]
@[simp] theorem State.writeRF_pixel (x : Nibble) (b f : Byte) (y : Fin 32) (c : Fin 64) : (s.writeRF x b f).pixel y c = s.pixel y c := by
  simp [State.pixel]

end Sys2Proof.Machine
end

