-- ==== Sys2Proof/Laws/Memory.lean ====
section
/-! SUPPORT. Memory: a read after a write, the canonical form and what keeps it, and the range check. -/

namespace Sys2Proof.Machine

variable (font : Font)

/-! Reads -/

theorem Memory.read_drop (m : Memory) (a c : Nat) :
    Memory.read font (Memory.drop m a) c = if c = a then Memory.unlisted font a else Memory.read font m c := by
  induction m with
  | nil => by_cases h : c = a <;> simp [Memory.drop, Memory.read, h]
  | cons cell m ih =>
    obtain ⟨b, y⟩ := cell
    simp only [Memory.drop, ne_eq, decide_not] at ih ⊢
    by_cases hb : b = a
    · subst hb
      by_cases h : c = b
      · subst h; simpa [Memory.read] using ih
      · simp [Memory.read, h, ih]
    · by_cases hc : c = b
      · subst hc; simp [Memory.read, hb]
      · simp [Memory.read, hb, hc, ih]

theorem Memory.read_place (m : Memory) (a : Nat) (x : Byte) (c : Nat) (h : ∀ cell ∈ m, cell.1 ≠ a) :
    Memory.read font (Memory.place a x m) c = if c = a then x else Memory.read font m c := by
  induction m with
  | nil => simp [Memory.place, Memory.read]
  | cons cell m ih =>
    obtain ⟨b, y⟩ := cell
    have hb : b ≠ a := h (b, y) (by simp)
    have ih := ih fun q hq => h q (by simp [hq])
    simp only [Memory.place]
    split
    · simp [Memory.read]
    · by_cases hc : c = b
      · subst hc; simp [Memory.read, hb]
      · simp [Memory.read, hc, ih]

theorem Memory.mem_drop_ne (m : Memory) (a : Nat) : ∀ cell ∈ Memory.drop m a, cell.1 ≠ a := by
  simp [Memory.drop]

/-- A read after a write: the byte written at its address, every other byte as before. -/
theorem Memory.read_write (m : Memory) (a : Nat) (x : Byte) (c : Nat) :
    Memory.read font (Memory.write font m a x) c = if c = a then x else Memory.read font m c := by
  unfold Memory.write
  split
  · rename_i h; rw [Memory.read_drop, h]
  · rw [Memory.read_place _ _ _ _ _ (Memory.mem_drop_ne m a), Memory.read_drop]
    by_cases h : c = a <;> simp [h]

/-! The canonical form -/

theorem Memory.wfFrom_mono {lo lo' : Nat} (h : lo' ≤ lo) :
    ∀ {m : Memory}, Memory.wfFrom font lo m = true → Memory.wfFrom font lo' m = true
  | [], _ => rfl
  | (b, y) :: m, hm => by
    simp only [Memory.wfFrom, Bool.and_eq_true, decide_eq_true_eq] at hm ⊢
    exact ⟨⟨⟨by omega, hm.1.1.2⟩, hm.1.2⟩, hm.2⟩

/-- Dropping cells by any test keeps the canonical form. -/
theorem Memory.wfFrom_filter (p : Host.Cell → Bool) :
    ∀ {m : Memory} {lo : Nat}, Memory.wfFrom font lo m = true → Memory.wfFrom font lo (m.filter p) = true
  | [], _, _ => rfl
  | (b, y) :: m, lo, hm => by
    simp only [Memory.wfFrom, Bool.and_eq_true, decide_eq_true_eq] at hm
    have ih := Memory.wfFrom_filter p hm.2
    rw [List.filter_cons]
    split
    · simp only [Memory.wfFrom, Bool.and_eq_true, decide_eq_true_eq]
      exact ⟨hm.1, ih⟩
    · exact Memory.wfFrom_mono font (by omega) ih

theorem Memory.wfFrom_place (a : Nat) (x : Byte) (ha : a ≤ memTop) (hx : x ≠ Memory.unlisted font a) :
    ∀ {m : Memory} {lo : Nat}, lo ≤ a → (∀ cell ∈ m, cell.1 ≠ a) → Memory.wfFrom font lo m = true →
      Memory.wfFrom font lo (Memory.place a x m) = true
  | [], lo, hlo, _, _ => by simp [Memory.place, Memory.wfFrom, hlo, ha, hx]
  | (b, y) :: m, lo, hlo, hne, hm => by
    have hb : b ≠ a := hne (b, y) (by simp)
    simp only [Memory.wfFrom, Bool.and_eq_true, decide_eq_true_eq] at hm
    simp only [Memory.place]
    split
    · rename_i hab
      simp only [Memory.wfFrom, Bool.and_eq_true, decide_eq_true_eq, bne_iff_ne]
      exact ⟨⟨⟨hlo, ha⟩, hx⟩, ⟨⟨by omega, hm.1.1.2⟩, by simpa using hm.1.2⟩, hm.2⟩
    · simp only [Memory.wfFrom, Bool.and_eq_true, decide_eq_true_eq]
      exact ⟨hm.1, Memory.wfFrom_place a x ha hx (by omega) (fun q hq => hne q (by simp [hq])) hm.2⟩

/-- A write inside memory keeps the canonical form. -/
theorem Memory.wf_write (m : Memory) (a : Nat) (x : Byte) (ha : a ≤ memTop) (hm : Memory.wf font m = true) :
    Memory.wf font (Memory.write font m a x) = true := by
  have hd : Memory.wfFrom font 0 (Memory.drop m a) = true := Memory.wfFrom_filter font _ hm
  unfold Memory.write Memory.wf
  split
  · exact hd
  · rename_i hx
    exact Memory.wfFrom_place font a x ha hx (Nat.zero_le a) (Memory.mem_drop_ne m a) hd

/-- The reset memory, which lists nothing, has the canonical form. -/
theorem reset_mem_wf : Memory.wf State.reset.cfg.font State.reset.mem = true := rfl

/-! The state's bytes -/

theorem State.byteAt_setByte (s : State) (a : Nat) (x : Byte) (c : Nat) :
    (s.setByte a x).byteAt c = if c = a ∧ a ≤ memTop then x else s.byteAt c := by
  unfold State.setByte State.byteAt
  split
  · rename_i h; simp [Memory.read_write, h]
  · rename_i h; simp [h]

theorem State.wf_setByte (s : State) (a : Nat) (x : Byte) (h : Memory.wf s.cfg.font s.mem = true) :
    Memory.wf s.cfg.font (s.setByte a x).mem = true := by
  unfold State.setByte
  split
  · rename_i ha; exact Memory.wf_write _ _ _ _ ha h
  · exact h

/-- What a block store does to every byte: those of the block that lie in memory are written, no other changes. -/
theorem State.byteAt_setBytes (xs : List Byte) :
    ∀ (s : State) (a c : Nat), (s.setBytes a xs).byteAt c =
      if a ≤ c ∧ c < a + xs.length ∧ c ≤ memTop then xs.getD (c - a) 0#8 else s.byteAt c := by
  induction xs with
  | nil => intro s a c; rw [State.setBytes, if_neg]; simp; omega
  | cons x xs ih =>
    intro s a c
    simp only [State.setBytes, ih, State.byteAt_setByte, List.length_cons]
    by_cases hca : c = a
    · subst hca
      by_cases ht : c ≤ memTop <;> simp [ht]
    · by_cases h1 : a + 1 ≤ c ∧ c < a + 1 + xs.length ∧ c ≤ memTop
      · have h2 : a ≤ c ∧ c < a + (xs.length + 1) ∧ c ≤ memTop := by omega
        have h3 : c - a = (c - (a + 1)) + 1 := by omega
        rw [if_pos h1, if_pos h2, h3, List.getD_cons_succ]
      · have h2 : ¬ (a ≤ c ∧ c < a + (xs.length + 1) ∧ c ≤ memTop) := by omega
        rw [if_neg h1, if_neg h2]; simp [hca]

/-- A block store keeps the canonical form. -/
theorem State.wf_setBytes (xs : List Byte) :
    ∀ (s : State) (a : Nat), Memory.wf s.cfg.font s.mem = true → Memory.wf s.cfg.font (s.setBytes a xs).mem = true := by
  induction xs with
  | nil => intro s a h; exact h
  | cons x xs ih =>
    intro s a h
    have := ih (s.setByte a x) (a + 1) (by simpa using State.wf_setByte s a x h)
    simpa [State.setBytes] using this

/-! The range check -/

/-- No fault is found exactly when every byte of the block lies in memory. -/
theorem memFault_eq_none (a n : Nat) : memFault a n = none ↔ n = 0 ∨ a + n - 1 ≤ memTop := by
  unfold memFault
  split <;> simp <;> omega

/-- A fault found is MemOutOfRange at the larger of the base and 0x1000. -/
theorem memFault_eq_some (a n : Nat) (r : FaultReason) :
    memFault a n = some r ↔ (0 < n ∧ memTop < a + n - 1) ∧ r = .memOutOfRange (max a (memTop + 1)) := by
  unfold memFault
  split
  · rename_i h; simp [h, eq_comm]
  · rename_i h; simp [h]

end Sys2Proof.Machine
end

