-- ==== Sys2Proof/Laws/Operations.lean ====
section
/-! SUPPORT. What each shared operation over registers, stack, keys, fetch and faults can do, one lemma each. -/

namespace Sys2Proof.Machine

variable (s : State)

/-! Registers -/

/-- A register read after a register write. -/
theorem State.reg_setReg (x : Nibble) (b : Byte) (r : Nibble) :
    (s.setReg x b).reg r = if r = x then b else s.reg r := by
  have hx : r = x ↔ x.toNat = r.toNat := by rw [eq_comm, BitVec.toNat_inj]
  simp only [State.reg, State.setReg, Vector.getElem_set, hx]

/-- The registers after `write_rf`: only x and F change, and when x = F the parameter says which write is last. -/
theorem State.reg_writeRF (x : Nibble) (b f : Byte) (r : Nibble) :
    (s.writeRF x b f).reg r =
      match s.cfg.vfWriteOrder with
      | .flagThenResult => if r = x then b else if r = vf then f else s.reg r
      | .resultThenFlag => if r = vf then f else if r = x then b else s.reg r := by
  unfold State.writeRF
  cases s.cfg.vfWriteOrder <;> simp only [State.reg_setReg]

/-- The registers after a block load: those below `n` hold the bytes read, the others what they held. -/
theorem State.reg_loadFrom (a n : Nat) (hn : n ≤ 16) (r : Nibble) :
    (s.loadFrom a n).reg r = if r.toNat < n then s.byteAt (a + r.toNat) else s.reg r := by
  induction n with
  | zero => simp [State.loadFrom]
  | succ k ih =>
    have ih := ih (by omega)
    have hr : r = BitVec.ofNat 4 k ↔ r.toNat = k := by
      rw [← BitVec.toNat_inj, BitVec.toNat_ofNat, Nat.mod_eq_of_lt (by omega)]
    rw [State.loadFrom, State.reg_setReg, ih]
    by_cases h : r.toNat = k
    · rw [if_pos (hr.2 h), if_pos (by omega), h]
    · rw [if_neg (hr.not.2 h)]
      by_cases h2 : r.toNat < k
      · rw [if_pos h2, if_pos (by omega)]
      · rw [if_neg h2, if_neg (by omega)]

/-- The register list read by a block store, one entry at a time. -/
theorem State.regsList_getD (n k : Nat) (hn : n ≤ 16) (hk : k < n) :
    (s.regsList n).getD k 0#8 = s.reg (BitVec.ofNat 4 k) := by
  have h16 : k < 16 := by omega
  have hm : k % 16 = k := Nat.mod_eq_of_lt h16
  simp [State.regsList, State.reg, hk, h16, hm]

theorem State.regsList_length (n : Nat) (hn : n ≤ 16) : (s.regsList n).length = n := by
  simp [State.regsList, hn]

/-! The call stack -/

/-- A push succeeds exactly below 16 entries, and then changes one entry and the pointer. -/
theorem State.push_eq_some (w : Word) (t : State) :
    s.push w = some t ↔
      ∃ h : s.sp.val < 16, t = { s with stack := s.stack.set s.sp.val w h, sp := ⟨s.sp.val + 1, Nat.succ_lt_succ h⟩ } := by
  unfold State.push
  split
  · rename_i h; simp [h, eq_comm]
  · rename_i h; simp [h]

theorem State.push_eq_none (w : Word) : s.push w = none ↔ s.sp.val = 16 := by
  unfold State.push
  split <;> simp <;> omega

/-- A pop succeeds exactly on a non-empty stack: it gives the newest entry and lowers the pointer, nothing else. -/
theorem State.pop_eq_some (w : Word) (t : State) :
    s.pop = some (w, t) ↔
      ∃ (k : Nat) (h : k + 1 < 17), s.sp = ⟨k + 1, h⟩ ∧ w = s.stack[k]'(by omega) ∧ t = { s with sp := ⟨k, by omega⟩ } := by
  unfold State.pop
  split
  · rename_i h; simp [h]
  · rename_i k hk h
    simp only [Option.some.injEq, Prod.mk.injEq, h, Fin.mk.injEq]
    constructor
    · rintro ⟨rfl, rfl⟩; exact ⟨k, hk, rfl, rfl, rfl⟩
    · rintro ⟨j, hj, hjk, rfl, rfl⟩
      obtain rfl : k = j := by omega
      exact ⟨rfl, rfl⟩

theorem State.pop_eq_none : s.pop = none ↔ s.sp.val = 0 := by
  unfold State.pop
  split <;> rename_i h <;> simp [h]

/-! Keys -/

theorem State.keyAt_eq_none (k : Byte) : s.keyAt k = none ↔ 16 ≤ k.toNat := by
  unfold State.keyAt
  split <;> simp <;> omega

theorem State.keyAt_of_lt (k : Byte) (h : k.toNat < 16) : s.keyAt k = some s.key[k.toNat] := by
  unfold State.keyAt
  rw [dif_pos h]

theorem State.pressedFrom_eq_some (n : Nat) :
    ∀ lo k, s.pressedFrom lo n = some k ↔
      (lo ≤ k ∧ k < lo + n ∧ s.key[k]? = some true) ∧ ∀ j, lo ≤ j → j < k → s.key[j]? ≠ some true := by
  induction n with
  | zero => intro lo k; simp [State.pressedFrom]; omega
  | succ n ih =>
    intro lo k
    rw [State.pressedFrom]
    split
    · rename_i h
      constructor
      · rintro ⟨rfl⟩; exact ⟨⟨le_refl _, by omega, h⟩, fun j _ _ => by omega⟩
      · rintro ⟨⟨h1, _, _⟩, h4⟩
        by_contra hne
        exact h4 lo (le_refl _) (by simp at hne; omega) h
    · rename_i h
      rw [ih]
      constructor
      · rintro ⟨⟨h1, h2, h3⟩, h4⟩
        refine ⟨⟨by omega, by omega, h3⟩, fun j hj hjk => ?_⟩
        by_cases he : j = lo
        · rw [he]; exact h
        · exact h4 j (by omega) hjk
      · rintro ⟨⟨h1, h2, h3⟩, h4⟩
        have hne : k ≠ lo := fun he => h (he ▸ h3)
        exact ⟨⟨by omega, by omega, h3⟩, fun j hj hjk => h4 j (by omega) hjk⟩

/-- The key FX0A finds: it is pressed, and no lower one is. -/
theorem State.lowestPressed_eq_some (k : Nat) :
    s.lowestPressed = some k ↔ s.key[k]? = some true ∧ ∀ j, j < k → s.key[j]? ≠ some true := by
  unfold State.lowestPressed
  rw [State.pressedFrom_eq_some]
  constructor
  · rintro ⟨⟨_, _, h⟩, h4⟩; exact ⟨h, fun j hj => h4 j (Nat.zero_le j) hj⟩
  · rintro ⟨h, h4⟩
    have : k < 16 := by
      by_contra hk
      rw [Vector.getElem?_eq_none (by omega)] at h
      simp at h
    exact ⟨⟨Nat.zero_le k, by omega, h⟩, fun j _ hj => h4 j hj⟩

theorem State.pressedFrom_eq_none (n : Nat) :
    ∀ lo, s.pressedFrom lo n = none ↔ ∀ j, lo ≤ j → j < lo + n → s.key[j]? ≠ some true := by
  induction n with
  | zero => intro lo; simp [State.pressedFrom]; omega
  | succ n ih =>
    intro lo
    rw [State.pressedFrom]
    split
    · rename_i h
      simp only [reduceCtorEq, false_iff]
      exact fun hall => hall lo (le_refl _) (by omega) h
    · rename_i h
      rw [ih]
      constructor
      · intro hall j hj hjn
        by_cases he : j = lo
        · rw [he]; exact h
        · exact hall j (by omega) (by omega)
      · exact fun hall j hj hjn => hall j (by omega) (by omega)

/-- FX0A finds no key exactly when none is pressed. -/
theorem State.lowestPressed_eq_none : s.lowestPressed = none ↔ ∀ k : Fin 16, s.key[k] = false := by
  unfold State.lowestPressed
  rw [State.pressedFrom_eq_none]
  constructor
  · intro h k
    have := h k.val (Nat.zero_le _) (by omega)
    simpa using this
  · intro h j _ hj
    have := h ⟨j, by omega⟩
    rw [Vector.getElem?_eq_getElem (by omega)]
    simpa using this

/-! Faults and the step -/

/-- What a guarded answer is: always a next state, with the fault recorded or without one found. -/
theorem State.guard_eq (f : Option FaultReason) (t : State) :
    s.guard f t = .next (match f with | none => t | some r => s.raise r) := by
  cases f <;> rfl

/-- What the end of a step can answer with a next state: the handler's, or the state before with its fault recorded. -/
theorem State.commit_eq_next (o : Result) (t : State) :
    s.commit o = .next t ↔
      ∃ u, o = .next u ∧ ((u.fault = none ∧ t = u) ∨ ∃ r, u.fault = some r ∧ t = { s with fault := some r }) := by
  cases o with
  | next u => cases h : u.fault <;> simp [State.commit, h, eq_comm]
  | fault f => simp [State.commit]
  | refused r => simp [State.commit]

/-- A fetch succeeds exactly when pc and pc + 1 are in memory, and then reads the two bytes there. -/
theorem State.fetch_eq_some (w : Word) :
    s.fetch = some w ↔
      s.pc.toNat ≤ 0xFFE ∧ w = wordOfBytes (s.byteAt s.pc.toNat) (s.byteAt (s.pc.toNat + 1)) := by
  unfold State.fetch
  split
  · rename_i h
    have : s.pc.toNat ≤ 0xFFE := by simp [memTop] at h; omega
    simp [this, eq_comm]
  · rename_i h
    have : ¬ s.pc.toNat ≤ 0xFFE := by simp [memTop] at h; omega
    simp [this]

theorem State.fetch_eq_none : s.fetch = none ↔ 0xFFE < s.pc.toNat := by
  unfold State.fetch
  split <;> rename_i h <;> simp [memTop] at h ⊢ <;> omega

end Sys2Proof.Machine
end

