-- ==== Sys2Proof/Laws/Display.lean ====
section
/-! SUPPORT. What a draw does to every pixel and to the collision. -/

namespace Sys2Proof.Machine

theorem Framebuffer.pixel_setPixel (fb : Framebuffer) (y y' : Fin 32) (x x' : Fin 64) (b : Byte) :
    Framebuffer.pixel (Framebuffer.setPixel fb y x b) y' x' =
      if y' = y ∧ x' = x then b else Framebuffer.pixel fb y' x' := by
  unfold Framebuffer.pixel Framebuffer.setPixel
  by_cases hy : y' = y
  · subst hy
    by_cases hx : x' = x
    · subst hx; simp
    · have : x.val ≠ x'.val := fun h => hx (Fin.ext h.symm)
      simp [hx, this]
  · have : y.val ≠ y'.val := fun h => hy (Fin.ext h.symm)
    simp [hy, this]

@[simp] theorem Framebuffer.pixel_clear (y : Fin 32) (x : Fin 64) :
    Framebuffer.pixel Framebuffer.clear y x = 0#8 := by
  simp [Framebuffer.pixel, Framebuffer.clear]

/-- One sprite row of `k` columns: a pixel is flipped when a set bit of the row lands on it, and the collision is set
when one of those pixels was set. -/
theorem Drawing.drawRow_spec (d : Drawing) (xs : Nat) (y : Fin 32) (b : Byte) (k : Nat) (hk : k ≤ 8) :
    (∀ y' x', Framebuffer.pixel (d.drawRow xs y b k).fb y' x' =
        if y' = y ∧ ∃ c < k, spriteBit b c = true ∧ wrapX (xs + c) = x' then Framebuffer.pixel d.fb y' x' ^^^ 1#8
        else Framebuffer.pixel d.fb y' x') ∧
      ((d.drawRow xs y b k).collision = true ↔
        d.collision = true ∨
          ∃ c < k, spriteBit b c = true ∧ Framebuffer.pixel d.fb y (wrapX (xs + c)) = 1#8) := by
  induction k with
  | zero => simp [Drawing.drawRow]
  | succ k ih =>
    obtain ⟨ihp, ihc⟩ := ih (by omega)
    have fresh : ∀ c < k, wrapX (xs + c) ≠ wrapX (xs + k) := by
      intro c hc h
      have := congrArg Fin.val h
      simp only [wrapX] at this
      omega
    have hk0 : Framebuffer.pixel (d.drawRow xs y b k).fb y (wrapX (xs + k)) =
        Framebuffer.pixel d.fb y (wrapX (xs + k)) := by
      rw [ihp, if_neg]
      rintro ⟨-, c, hc, -, h⟩
      exact fresh c hc h
    by_cases hb : spriteBit b k = true
    · simp only [Drawing.drawRow, hb, if_true, Drawing.flip]
      constructor
      · intro y' x'
        rw [Framebuffer.pixel_setPixel]
        by_cases h : y' = y ∧ x' = wrapX (xs + k)
        · obtain ⟨rfl, rfl⟩ := h
          rw [if_pos ⟨rfl, rfl⟩, hk0, if_pos ⟨rfl, k, by omega, hb, rfl⟩]
        · rw [if_neg h, ihp]
          congr 1
          simp only [eq_iff_iff, and_congr_right_iff]
          intro hy
          constructor
          · rintro ⟨c, hc, h1, h2⟩; exact ⟨c, by omega, h1, h2⟩
          · rintro ⟨c, hc, h1, h2⟩
            have : c ≠ k := fun he => h ⟨hy, by rw [← h2, he]⟩
            exact ⟨c, by omega, h1, h2⟩
      · rw [hk0]
        simp only [Bool.or_eq_true, beq_iff_eq, ihc]
        constructor
        · rintro ((h | ⟨c, hc, h1, h2⟩) | h)
          · exact .inl h
          · exact .inr ⟨c, by omega, h1, h2⟩
          · exact .inr ⟨k, by omega, hb, h⟩
        · rintro (h | ⟨c, hc, h1, h2⟩)
          · exact .inl (.inl h)
          · by_cases he : c = k
            · exact .inr (he ▸ h2)
            · exact .inl (.inr ⟨c, by omega, h1, h2⟩)
    · have ext : ∀ P : Nat → Prop, (∃ c < k + 1, spriteBit b c = true ∧ P c) ↔ ∃ c < k, spriteBit b c = true ∧ P c := by
        intro P
        constructor
        · rintro ⟨c, hc, h1, h2⟩
          have : c ≠ k := fun he => hb (he ▸ h1)
          exact ⟨c, by omega, h1, h2⟩
        · rintro ⟨c, hc, h⟩; exact ⟨c, by omega, h⟩
      simp only [Drawing.drawRow, hb, Bool.false_eq_true, if_false, ext]
      exact ⟨ihp, ihc⟩

/-- Some set bit of the sprite `bs`, drawn with its top left at column `xs` and row `ys`, lands on row y, column x. -/
def covers (xs ys : Nat) (bs : List Byte) (y : Fin 32) (x : Fin 64) : Prop :=
  ∃ r c, ∃ h : r < bs.length, c < 8 ∧ spriteBit bs[r] c = true ∧ wrapY (ys + r) = y ∧ wrapX (xs + c) = x

theorem covers_cons (xs ys : Nat) (b : Byte) (bs : List Byte) (y : Fin 32) (x : Fin 64) :
    covers xs ys (b :: bs) y x ↔
      (y = wrapY ys ∧ ∃ c < 8, spriteBit b c = true ∧ wrapX (xs + c) = x) ∨ covers xs (ys + 1) bs y x := by
  unfold covers
  constructor
  · rintro ⟨r, c, h, hc, h1, h2, h3⟩
    cases r with
    | zero => exact .inl ⟨h2.symm, c, hc, h1, h3⟩
    | succ r => exact .inr ⟨r, c, by simpa using h, hc, by simpa using h1, by rw [← h2]; congr 1; omega, h3⟩
  · rintro (⟨rfl, c, hc, h1, h3⟩ | ⟨r, c, h, hc, h1, h2, h3⟩)
    · exact ⟨0, c, by simp, hc, h1, rfl, h3⟩
    · exact ⟨r + 1, c, by simpa using h, hc, by simpa using h1, by rw [← h2]; congr 1; omega, h3⟩

/-- A whole sprite of at most 32 rows: the covered pixels are flipped, no other changes, and the collision is set
when a covered pixel was set. -/
theorem Drawing.drawRows_spec (xs : Nat) (bs : List Byte) :
    ∀ (d : Drawing) (ys : Nat), bs.length ≤ 32 →
      (∀ y x, (covers xs ys bs y x →
          Framebuffer.pixel (d.drawRows xs ys bs).fb y x = Framebuffer.pixel d.fb y x ^^^ 1#8) ∧
        (¬ covers xs ys bs y x → Framebuffer.pixel (d.drawRows xs ys bs).fb y x = Framebuffer.pixel d.fb y x)) ∧
      ((d.drawRows xs ys bs).collision = true ↔
        d.collision = true ∨ ∃ y x, covers xs ys bs y x ∧ Framebuffer.pixel d.fb y x = 1#8) := by
  induction bs with
  | nil =>
    intro d ys _
    have hn : ∀ y x, ¬ covers xs ys [] y x := by rintro y x ⟨r, c, h, _⟩; simp at h
    simp [Drawing.drawRows, hn]
  | cons b bs ih =>
    intro d ys hlen
    simp only [List.length_cons] at hlen
    obtain ⟨ihp, ihc⟩ := ih (d.drawRow xs (wrapY ys) b 8) (ys + 1) (by omega)
    obtain ⟨rp, rc⟩ := Drawing.drawRow_spec d xs (wrapY ys) b 8 (le_refl 8)
    have apart : ∀ x, ¬ covers xs (ys + 1) bs (wrapY ys) x := by
      rintro x ⟨r, c, h, _, _, h2, _⟩
      have := congrArg Fin.val h2
      simp only [wrapY] at this
      omega
    have hrow : ∀ y x, covers xs (ys + 1) bs y x →
        Framebuffer.pixel (d.drawRow xs (wrapY ys) b 8).fb y x = Framebuffer.pixel d.fb y x := by
      intro y x h
      rw [rp, if_neg]
      rintro ⟨rfl, -⟩
      exact apart x h
    simp only [Drawing.drawRows]
    constructor
    · intro y x
      rw [covers_cons]
      by_cases hrest : covers xs (ys + 1) bs y x
      · exact ⟨fun _ => by rw [(ihp y x).1 hrest, hrow y x hrest], fun h => absurd (.inr hrest) h⟩
      · rw [(ihp y x).2 hrest, rp]
        exact ⟨fun h => by rw [if_pos (h.resolve_right hrest)], fun h => by rw [if_neg fun h' => h (.inl h')]⟩
    · rw [ihc, rc]
      constructor
      · rintro ((h | ⟨c, hc, h1, h2⟩) | ⟨y, x, h1, h2⟩)
        · exact .inl h
        · exact .inr ⟨wrapY ys, wrapX (xs + c), (covers_cons ..).2 (.inl ⟨rfl, c, hc, h1, rfl⟩), h2⟩
        · exact .inr ⟨y, x, (covers_cons ..).2 (.inr h1), by rw [← hrow y x h1]; exact h2⟩
      · rintro (h | ⟨y, x, h1, h2⟩)
        · exact .inl (.inl h)
        · rcases (covers_cons ..).1 h1 with ⟨rfl, c, hc, hb, rfl⟩ | h3
          · exact .inl (.inr ⟨c, hc, hb, h2⟩)
          · exact .inr ⟨y, x, h3, by rw [hrow y x h3]; exact h2⟩

end Sys2Proof.Machine
end

