-- ==== Sys2Proof/Laws/PerInstr.lean ====
section
/-! SUPPORT. Laws about every instruction as syntax, one lemma per constructor. -/

namespace Sys2Proof.Laws.TableRow

/-- The word of an instruction has the fixed bits of its row in the opcode map (spec 30_encoding.md R99, R100). -/
def Statement (i : Instr) : Prop := encode i &&& i.rowMask = i.rowMatch

/-! The six formats under their masks (R91) -/

theorem mask_address (k : BitVec 4) (nnn : Addr) : (k ++ nnn) &&& 0xF000#16 = k ++ 0#12 := by
  rw [show 0xF000#16 = 0xF#4 ++ 0#12 by decide, BitVec.and_append, BitVec.and_zero, show 0xF#4 = BitVec.allOnes 4 by decide,
    BitVec.and_allOnes]

theorem mask_registerByte (k x : BitVec 4) (b : Byte) : (k ++ x ++ b) &&& 0xF000#16 = k ++ 0#4 ++ 0#8 := by
  rw [show 0xF000#16 = 0xF#4 ++ 0#4 ++ 0#8 by decide, BitVec.and_append, BitVec.and_append, BitVec.and_zero,
    BitVec.and_zero, show 0xF#4 = BitVec.allOnes 4 by decide, BitVec.and_allOnes]

theorem mask_registerFunction (k x : BitVec 4) (f : Byte) : (k ++ x ++ f) &&& 0xF0FF#16 = k ++ 0#4 ++ f := by
  rw [show 0xF0FF#16 = 0xF#4 ++ 0#4 ++ 0xFF#8 by decide, BitVec.and_append, BitVec.and_append, BitVec.and_zero,
    show 0xF#4 = BitVec.allOnes 4 by decide, show 0xFF#8 = BitVec.allOnes 8 by decide, BitVec.and_allOnes, BitVec.and_allOnes]

theorem mask_registersNibble (k x y n : BitVec 4) : (k ++ x ++ y ++ n) &&& 0xF000#16 = k ++ 0#4 ++ 0#4 ++ 0#4 := by
  rw [show 0xF000#16 = 0xF#4 ++ 0#4 ++ 0#4 ++ 0#4 by decide, BitVec.and_append, BitVec.and_append, BitVec.and_append,
    BitVec.and_zero, BitVec.and_zero, BitVec.and_zero, show 0xF#4 = BitVec.allOnes 4 by decide, BitVec.and_allOnes]

theorem mask_registersFunction (k x y f : BitVec 4) : (k ++ x ++ y ++ f) &&& 0xF00F#16 = k ++ 0#4 ++ 0#4 ++ f := by
  rw [show 0xF00F#16 = 0xF#4 ++ 0#4 ++ 0#4 ++ 0xF#4 by decide, BitVec.and_append, BitVec.and_append, BitVec.and_append,
    BitVec.and_zero, BitVec.and_zero, show 0xF#4 = BitVec.allOnes 4 by decide, BitVec.and_allOnes, BitVec.and_allOnes]

theorem mask_registersPair (k x y : BitVec 4) (f : BitVec 3) (lo : BitVec 1) :
    (k ++ x ++ y ++ f ++ lo) &&& 0xF00E#16 = k ++ 0#4 ++ 0#4 ++ f ++ 0#1 := by
  rw [show 0xF00E#16 = 0xF#4 ++ 0#4 ++ 0#4 ++ 0x7#3 ++ 0#1 by decide, BitVec.and_append, BitVec.and_append,
    BitVec.and_append, BitVec.and_append, BitVec.and_zero, BitVec.and_zero, BitVec.and_zero,
    show 0xF#4 = BitVec.allOnes 4 by decide, show 0x7#3 = BitVec.allOnes 3 by decide, BitVec.and_allOnes, BitVec.and_allOnes]

theorem sys (nnn : Addr) : Statement (.sys nnn) := by
  simp only [Statement, encode, Instr.rowMask, Instr.rowMatch, mask_address]
  decide

theorem cls : Statement (.cls) := rfl

theorem ret : Statement (.ret) := rfl

theorem jp (nnn : Addr) : Statement (.jp nnn) := by
  simp only [Statement, encode, Instr.rowMask, Instr.rowMatch, mask_address]
  decide

theorem call (nnn : Addr) : Statement (.call nnn) := by
  simp only [Statement, encode, Instr.rowMask, Instr.rowMatch, mask_address]
  decide

theorem seImm (x : Nibble) (nn : Byte) : Statement (.seImm x nn) := by
  simp only [Statement, encode, Instr.rowMask, Instr.rowMatch, mask_registerByte]
  decide

theorem sneImm (x : Nibble) (nn : Byte) : Statement (.sneImm x nn) := by
  simp only [Statement, encode, Instr.rowMask, Instr.rowMatch, mask_registerByte]
  decide

theorem seReg (x : Nibble) (y : Nibble) (n : Nibble) : Statement (.seReg x y n) := by
  simp only [Statement, encode, Instr.rowMask, Instr.rowMatch, mask_registersNibble]
  decide

theorem ldImm (x : Nibble) (nn : Byte) : Statement (.ldImm x nn) := by
  simp only [Statement, encode, Instr.rowMask, Instr.rowMatch, mask_registerByte]
  decide

theorem addImm (x : Nibble) (nn : Byte) : Statement (.addImm x nn) := by
  simp only [Statement, encode, Instr.rowMask, Instr.rowMatch, mask_registerByte]
  decide

theorem ldReg (x : Nibble) (y : Nibble) : Statement (.ldReg x y) := by
  simp only [Statement, encode, Instr.rowMask, Instr.rowMatch, mask_registersFunction]
  decide

theorem orReg (x : Nibble) (y : Nibble) : Statement (.orReg x y) := by
  simp only [Statement, encode, Instr.rowMask, Instr.rowMatch, mask_registersFunction]
  decide

theorem andReg (x : Nibble) (y : Nibble) : Statement (.andReg x y) := by
  simp only [Statement, encode, Instr.rowMask, Instr.rowMatch, mask_registersFunction]
  decide

theorem xorReg (x : Nibble) (y : Nibble) : Statement (.xorReg x y) := by
  simp only [Statement, encode, Instr.rowMask, Instr.rowMatch, mask_registersFunction]
  decide

theorem addReg (x : Nibble) (y : Nibble) : Statement (.addReg x y) := by
  simp only [Statement, encode, Instr.rowMask, Instr.rowMatch, mask_registersFunction]
  decide

theorem subReg (x : Nibble) (y : Nibble) : Statement (.subReg x y) := by
  simp only [Statement, encode, Instr.rowMask, Instr.rowMatch, mask_registersFunction]
  decide

theorem shr (x : Nibble) (y : Nibble) : Statement (.shr x y) := by
  simp only [Statement, encode, Instr.rowMask, Instr.rowMatch, mask_registersFunction]
  decide

theorem subnReg (x : Nibble) (y : Nibble) : Statement (.subnReg x y) := by
  simp only [Statement, encode, Instr.rowMask, Instr.rowMatch, mask_registersFunction]
  decide

theorem shl (x : Nibble) (y : Nibble) : Statement (.shl x y) := by
  simp only [Statement, encode, Instr.rowMask, Instr.rowMatch, mask_registersFunction]
  decide

theorem sneReg (x : Nibble) (y : Nibble) (n : Nibble) : Statement (.sneReg x y n) := by
  simp only [Statement, encode, Instr.rowMask, Instr.rowMatch, mask_registersNibble]
  decide

theorem ldI (nnn : Addr) : Statement (.ldI nnn) := by
  simp only [Statement, encode, Instr.rowMask, Instr.rowMatch, mask_address]
  decide

theorem jpV0 (nnn : Addr) : Statement (.jpV0 nnn) := by
  simp only [Statement, encode, Instr.rowMask, Instr.rowMatch, mask_address]
  decide

theorem rnd (x : Nibble) (nn : Byte) : Statement (.rnd x nn) := by
  simp only [Statement, encode, Instr.rowMask, Instr.rowMatch, mask_registerByte]
  decide

theorem drw (x : Nibble) (y : Nibble) (n : Nibble) : Statement (.drw x y n) := by
  simp only [Statement, encode, Instr.rowMask, Instr.rowMatch, mask_registersNibble]
  decide

theorem skp (x : Nibble) : Statement (.skp x) := by
  simp only [Statement, encode, Instr.rowMask, Instr.rowMatch, mask_registerFunction]
  decide

theorem sknp (x : Nibble) : Statement (.sknp x) := by
  simp only [Statement, encode, Instr.rowMask, Instr.rowMatch, mask_registerFunction]
  decide

theorem ldVxDt (x : Nibble) : Statement (.ldVxDt x) := by
  simp only [Statement, encode, Instr.rowMask, Instr.rowMatch, mask_registerFunction]
  decide

theorem ldVxK (x : Nibble) : Statement (.ldVxK x) := by
  simp only [Statement, encode, Instr.rowMask, Instr.rowMatch, mask_registerFunction]
  decide

theorem ldDtVx (x : Nibble) : Statement (.ldDtVx x) := by
  simp only [Statement, encode, Instr.rowMask, Instr.rowMatch, mask_registerFunction]
  decide

theorem ldStVx (x : Nibble) : Statement (.ldStVx x) := by
  simp only [Statement, encode, Instr.rowMask, Instr.rowMatch, mask_registerFunction]
  decide

theorem addI (x : Nibble) : Statement (.addI x) := by
  simp only [Statement, encode, Instr.rowMask, Instr.rowMatch, mask_registerFunction]
  decide

theorem ldF (x : Nibble) : Statement (.ldF x) := by
  simp only [Statement, encode, Instr.rowMask, Instr.rowMatch, mask_registerFunction]
  decide

theorem ldB (x : Nibble) : Statement (.ldB x) := by
  simp only [Statement, encode, Instr.rowMask, Instr.rowMatch, mask_registerFunction]
  decide

theorem storeRegs (x : Nibble) : Statement (.storeRegs x) := by
  simp only [Statement, encode, Instr.rowMask, Instr.rowMatch, mask_registerFunction]
  decide

theorem loadRegs (x : Nibble) : Statement (.loadRegs x) := by
  simp only [Statement, encode, Instr.rowMask, Instr.rowMatch, mask_registerFunction]
  decide

theorem unmapped89 (x : Nibble) (y : Nibble) (lo : BitVec 1) : Statement (.unmapped89 x y lo) := by
  simp only [Statement, encode, Instr.rowMask, Instr.rowMatch, mask_registersPair]
  decide

theorem unmappedAB (x : Nibble) (y : Nibble) (lo : BitVec 1) : Statement (.unmappedAB x y lo) := by
  simp only [Statement, encode, Instr.rowMask, Instr.rowMatch, mask_registersPair]
  decide

theorem unmappedCD (x : Nibble) (y : Nibble) (lo : BitVec 1) : Statement (.unmappedCD x y lo) := by
  simp only [Statement, encode, Instr.rowMask, Instr.rowMatch, mask_registersPair]
  decide

theorem unmapped8F (x : Nibble) (y : Nibble) : Statement (.unmapped8F x y) := by
  simp only [Statement, encode, Instr.rowMask, Instr.rowMatch, mask_registersFunction]
  decide

theorem unmappedE (x : Nibble) (kk : Byte) : Statement (.unmappedE x kk) := by
  simp only [Statement, encode, Instr.rowMask, Instr.rowMatch, mask_registerByte]
  decide

theorem unmappedF (x : Nibble) (kk : Byte) : Statement (.unmappedF x kk) := by
  simp only [Statement, encode, Instr.rowMask, Instr.rowMatch, mask_registerByte]
  decide

end Sys2Proof.Laws.TableRow
end

