-- ==== Sys2Proof/Laws/Step.lean ====
section
/-! SUPPORT. Everything a step can do, said once; what placing an instruction leaves; what a run can do. -/

namespace Sys2Proof.Machine

variable (s t : State)

/-- A step answers a next state exactly when no fault is recorded, and then it is the fetch fault, or what the decoded
instruction answers, or, where that took a fault, the state before with the fault recorded. -/
theorem step_eq_next :
    step s = .next t ↔
      s.fault = none ∧
        ((s.fetch = none ∧ t = s.raise (.pcOutOfRange s.pc)) ∨
          ∃ w u, s.fetch = some w ∧ exec (decode w) (s.setOpcode w) = .next u ∧
            ((u.fault = none ∧ t = u) ∨ ∃ r, u.fault = some r ∧ t = { s with fault := some r })) := by
  unfold step
  cases hf : s.fault with
  | some r => simp
  | none =>
    cases hw : s.fetch with
    | none => simp [eq_comm]
    | some w =>
      simp only [State.commit_eq_next]
      constructor
      · rintro ⟨u, h1, h2⟩; exact ⟨trivial, .inr ⟨w, u, rfl, h1, h2⟩⟩
      · rintro ⟨-, ⟨h, -⟩ | ⟨w', u, hw', h1, h2⟩⟩
        · cases h
        · cases hw'; exact ⟨u, h1, h2⟩

/-- The bytes of a word give it back. -/
theorem wordOfBytes_high_low (w : Word) : wordOfBytes (highByte w) (lowByte w) = w := by
  apply BitVec.eq_of_toNat_eq
  have := w.isLt
  simp only [wordOfBytes, highByte, lowByte, BitVec.toNat_append, BitVec.extractLsb'_toNat, Nat.shiftRight_zero]
  rw [← Nat.shiftLeft_add_eq_or_of_lt (by omega)]
  simp only [Nat.shiftLeft_eq, Nat.shiftRight_eq_div_pow]
  omega

/-- The state with an instruction placed at pc fetches exactly it. -/
theorem State.withFetchWord_fetch (nbits w : Nat) (hpc : s.pc.toNat ≤ 0xFFE) :
    (s.withFetchWord nbits w).fetch = some (tableWord nbits w) := by
  rw [State.fetch_eq_some]
  have h0 : s.pc.toNat ≤ memTop := by simp [memTop]; omega
  have h1 : s.pc.toNat + 1 ≤ memTop := by simp [memTop]; omega
  refine ⟨by simpa [State.withFetchWord] using hpc, ?_⟩
  simp [State.withFetchWord, State.byteAt_setBytes, h0, h1, wordOfBytes_high_low]

/-- A run of one event more. -/
theorem runEvents_cons (e : Event) (es : List Event) :
    runEvents (e :: es) s = some t ↔ ∃ u, e.apply s = some u ∧ runEvents es u = some t := by
  simp only [runEvents]
  cases e.apply s <;> simp

/-- The core's event is its step. -/
theorem Event.apply_core : Event.core.apply s = some t ↔ step s = .next t := by
  simp only [Event.apply]
  cases step s <;> simp

/-- What holds at the start and is kept by every step and every host operation holds at the end of every run. -/
theorem runEvents_induct (P : State → Prop) (hstep : ∀ u v, P u → step u = .next v → P v)
    (hhost : ∀ op u v, P u → HostOp.apply op u = some v → P v) :
    ∀ (es : List Event) (s t : State), P s → runEvents es s = some t → P t := by
  intro es
  induction es with
  | nil => rintro s t hs ⟨⟩; exact hs
  | cons e es ih =>
    intro s t hs h
    obtain ⟨u, hu, hrest⟩ := (runEvents_cons s t e es).1 h
    refine ih u t ?_ hrest
    cases e with
    | core => exact hstep s u hs ((Event.apply_core s u).1 hu)
    | host op => exact hhost op s u hs hu

end Sys2Proof.Machine
end

