-- ==== Sys2Proof/Tests/Slice0.lean ====
section
/-! SUPPORT. The model's own tests. Expected values come from spec 95_test_vectors.md (the vector is named) or from the
rule named; words are written out bit by bit from 30_encoding.md R91 and R99. -/

namespace Sys2Proof.Tests

open Sys2Proof.Machine

/-! Ill-formed terms are refused (R94, R96, R97) -/

theorem test_wf_refuses_sys_cls : (Instr.sys 0x0E0#12).wf = false := by decide
theorem test_wf_refuses_sys_ret : (Instr.sys 0x0EE#12).wf = false := by decide
theorem test_wf_refuses_unmapped_skp : (Instr.unmappedE 3#4 0x9E#8).wf = false := by decide
theorem test_wf_refuses_unmapped_sknp : (Instr.unmappedE 3#4 0xA1#8).wf = false := by decide
theorem test_wf_refuses_unmapped_bcd : (Instr.unmappedF 3#4 0x33#8).wf = false := by decide
theorem test_wf_accepts_sys : (Instr.sys 0x0E1#12).wf = true := by decide

/-! Every constructor from its word, bit by bit: slot, fields, function -/

theorem test_decode_sys : decode 0b0000000100100011#16 = .sys 0x123#12 := by decide
theorem test_decode_cls : decode 0b0000000011100000#16 = .cls := by decide
theorem test_decode_ret : decode 0b0000000011101110#16 = .ret := by decide
theorem test_decode_jp : decode 0b0001001000110100#16 = .jp 0x234#12 := by decide
theorem test_decode_call : decode 0b0010010101100111#16 = .call 0x567#12 := by decide
theorem test_decode_seImm : decode 0b0011001100010000#16 = .seImm 3#4 0x10#8 := by decide
theorem test_decode_sneImm : decode 0b0100001100010001#16 = .sneImm 3#4 0x11#8 := by decide
theorem test_decode_seReg : decode 0b0101000100100011#16 = .seReg 1#4 2#4 3#4 := by decide
theorem test_decode_ldImm : decode 0b0110010110101011#16 = .ldImm 5#4 0xAB#8 := by decide
theorem test_decode_addImm : decode 0b0111000111111110#16 = .addImm 1#4 0xFE#8 := by decide
theorem test_decode_ldReg : decode 0b1000000100100000#16 = .ldReg 1#4 2#4 := by decide
theorem test_decode_orReg : decode 0b1000000100100001#16 = .orReg 1#4 2#4 := by decide
theorem test_decode_andReg : decode 0b1000000100100010#16 = .andReg 1#4 2#4 := by decide
theorem test_decode_xorReg : decode 0b1000000100100011#16 = .xorReg 1#4 2#4 := by decide
theorem test_decode_addReg : decode 0b1000000100100100#16 = .addReg 1#4 2#4 := by decide
theorem test_decode_subReg : decode 0b1000000100100101#16 = .subReg 1#4 2#4 := by decide
theorem test_decode_shr : decode 0b1000000100100110#16 = .shr 1#4 2#4 := by decide
theorem test_decode_subnReg : decode 0b1000000100100111#16 = .subnReg 1#4 2#4 := by decide
theorem test_decode_shl : decode 0b1000000100101110#16 = .shl 1#4 2#4 := by decide
theorem test_decode_sneReg : decode 0b1001000100100000#16 = .sneReg 1#4 2#4 0#4 := by decide
theorem test_decode_ldI : decode 0b1010001100000001#16 = .ldI 0x301#12 := by decide
theorem test_decode_jpV0 : decode 0b1011001100000010#16 = .jpV0 0x302#12 := by decide
theorem test_decode_rnd : decode 0b1100001100001111#16 = .rnd 3#4 0x0F#8 := by decide
theorem test_decode_drw : decode 0b1101000000010101#16 = .drw 0#4 1#4 5#4 := by decide
theorem test_decode_skp : decode 0b1110010110011110#16 = .skp 5#4 := by decide
theorem test_decode_sknp : decode 0b1110010110100001#16 = .sknp 5#4 := by decide
theorem test_decode_ldVxDt : decode 0b1111001100000111#16 = .ldVxDt 3#4 := by decide
theorem test_decode_ldVxK : decode 0b1111010000001010#16 = .ldVxK 4#4 := by decide
theorem test_decode_ldDtVx : decode 0b1111001100010101#16 = .ldDtVx 3#4 := by decide
theorem test_decode_ldStVx : decode 0b1111001100011000#16 = .ldStVx 3#4 := by decide
theorem test_decode_addI : decode 0b1111000100011110#16 = .addI 1#4 := by decide
theorem test_decode_ldF : decode 0b1111001000101001#16 = .ldF 2#4 := by decide
theorem test_decode_ldB : decode 0b1111000000110011#16 = .ldB 0#4 := by decide
theorem test_decode_storeRegs : decode 0b1111001001010101#16 = .storeRegs 2#4 := by decide
theorem test_decode_loadRegs : decode 0b1111001001100101#16 = .loadRegs 2#4 := by decide
theorem test_decode_unmapped89 : decode 0b1000000100101001#16 = .unmapped89 1#4 2#4 1#1 := by decide
theorem test_decode_unmappedAB : decode 0b1000000100101010#16 = .unmappedAB 1#4 2#4 0#1 := by decide
theorem test_decode_unmappedCD : decode 0b1000000100101101#16 = .unmappedCD 1#4 2#4 1#1 := by decide
theorem test_decode_unmapped8F : decode 0b1000000100101111#16 = .unmapped8F 1#4 2#4 := by decide
theorem test_decode_unmappedE : decode 0b1110000111111111#16 = .unmappedE 1#4 0xFF#8 := by decide
theorem test_decode_unmappedF : decode 0b1111000000000010#16 = .unmappedF 0#4 0x02#8 := by decide

theorem test_decode_table_word : decodeTableWord 16 0x8124 = some (.addReg 1#4 2#4) := by decide
theorem test_decode_truncated : decodeBytes [0x81#8] = .error .truncated := rfl

/-! A small state, and the state one step later -/

/-- The reset state with one instruction word at 0x200. -/
def start (w : Nat) : State := State.reset.withFetchWord 16 w

/-- The next state of a step, or the state itself where there is none. -/
def after (s : State) : State :=
  match step s with
  | .next t => t
  | .fault _ => s
  | .refused _ => s

/-- The record of a fault taken at 0x200. -/
def at200 (r : FaultReason) (w : Word) : Option FaultRecord := some ⟨r, 0x200#16, w⟩

/-- The parameters with other values than their defaults. -/
def otherConfig : Config where
  unmappedPolicy := .fault
  shlVfMode := .referenceZero
  vfWriteOrder := .resultThenFlag
  fontDigitMode := .masked
  font := defaultFont

/-- A state under those parameters. -/
def withOther (s : State) : State := { s with cfg := otherConfig }

/-- The keys with one more pressed. -/
def press (s : State) (k : Fin 16) : State := { s with key := s.key.set k true }

/-! Fetch and dispatch -/

/-- F-1. -/
theorem test_sys : (after (start 0x0123)).pc = 0x202#16 := by decide
/-- F-3. -/
theorem test_fetch_fault :
    (after (State.reset.jump 0xFFF#16)).fault = some ⟨.pcOutOfRange 0xFFF#16, 0xFFF#16, 0#16⟩ := by decide
/-- F-4. -/
theorem test_fetch_top :
    (after ((State.reset.jump 0xFFE#16).withFetchWord 16 0x6001)).pc = 0x1000#16 ∧
      (after ((State.reset.jump 0xFFE#16).withFetchWord 16 0x6001)).reg 0#4 = 1#8 := by decide
/-- F-5: the opcode recorded is the one held before. -/
theorem test_fetch_fault_opcode :
    (after (after ((State.reset.jump 0xFFE#16).withFetchWord 16 0x6001))).fault =
      some ⟨.pcOutOfRange 0x1000#16, 0x1000#16, 0x6001#16⟩ := by decide
/-- F-11: an odd pc. -/
theorem test_fetch_odd : (after ((State.reset.jump 0x201#16).withFetchWord 16 0x602A)).reg 0#4 = 0x2A#8 := by decide
/-- F-10. -/
theorem test_stopped : step (after (start 0x00EE)) = .fault (.stopped ⟨.stackUnderflow, 0x200#16, 0x00EE#16⟩) := rfl
/-- F-6. -/
theorem test_unmapped_nop : (after (start 0x8128)).pc = 0x202#16 ∧ (after (start 0x8128)).fault = none := by decide
/-- F-7. -/
theorem test_unmapped_fault :
    (after (withOther (start 0x812F))).fault = at200 (.unknownOpcode 0x812F#16) 0x812F#16 := by decide
/-- F-8. -/
theorem test_unmapped_slotE_nop : (after (start 0xE1FF)).pc = 0x202#16 := by decide
/-- F-9. -/
theorem test_unmapped_slotF_fault :
    (after (withOther (start 0xF1FF))).fault = at200 (.unknownOpcode 0xF1FF#16) 0xF1FF#16 := by decide

/-! Control transfer -/

/-- C-1. -/
theorem test_jp : (after (start 0x1234)).pc = 0x234#16 := by decide
/-- C-4. -/
theorem test_call :
    (after (start 0x2400)).stack[0] = 0x200#16 ∧ (after (start 0x2400)).sp.val = 1 ∧
      (after (start 0x2400)).pc = 0x400#16 := by decide
/-- C-6. -/
theorem test_call_overflow :
    (after { start 0x2400 with sp := 16 }).fault = at200 .stackOverflow 0x2400#16 ∧
      (after { start 0x2400 with sp := 16 }).sp.val = 16 := by decide
/-- C-8. -/
theorem test_ret_underflow : (after (start 0x00EE)).fault = at200 .stackUnderflow 0x00EE#16 := by decide
/-- C-9. -/
theorem test_ret :
    (after { start 0x00EE with sp := 1, stack := State.reset.stack.set 0 0x3FE#16 }).pc = 0x400#16 ∧
      (after { start 0x00EE with sp := 1, stack := State.reset.stack.set 0 0x3FE#16 }).sp.val = 0 := by decide
/-- C-10. -/
theorem test_seImm : (after ((start 0x3310).setReg 3#4 0x10#8)).pc = 0x204#16 := by decide
/-- C-11. -/
theorem test_seImm_not : (after ((start 0x3311).setReg 3#4 0x10#8)).pc = 0x202#16 := by decide
/-- C-12. -/
theorem test_sneImm : (after ((start 0x4311).setReg 3#4 0x10#8)).pc = 0x204#16 := by decide
/-- C-13. -/
theorem test_sneImm_not : (after ((start 0x4310).setReg 3#4 0x10#8)).pc = 0x202#16 := by decide
/-- C-15: the low nibble is ignored. -/
theorem test_seReg : (after (((start 0x5123).setReg 1#4 7#8).setReg 2#4 7#8)).pc = 0x204#16 := by decide
/-- C-16. -/
theorem test_sneReg : (after (((start 0x9120).setReg 1#4 7#8).setReg 2#4 8#8)).pc = 0x204#16 := by decide
/-- C-17. -/
theorem test_sneReg_same : (after ((start 0x9110).setReg 1#4 7#8)).pc = 0x202#16 := by decide
/-- C-19. -/
theorem test_jpV0 : (after ((start 0xB300).setReg 0#4 4#8)).pc = 0x304#16 := by decide
/-- C-20: not masked. -/
theorem test_jpV0_high : (after ((start 0xBFFF).setReg 0#4 0xFF#8)).pc = 0x10FE#16 := by decide

/-! Registers and immediates -/

/-- I-1. -/
theorem test_ldImm : (after (start 0x65AB)).reg 5#4 = 0xAB#8 := by decide
/-- I-2. -/
theorem test_addImm_wraps :
    (after (((start 0x7101).setReg 1#4 0xFF#8).setReg vf 0x55#8)).reg 1#4 = 0#8 ∧
      (after (((start 0x7101).setReg 1#4 0xFF#8).setReg vf 0x55#8)).reg vf = 0x55#8 := by decide
/-- I-4. -/
theorem test_addImm_vf : (after ((start 0x7FF0).setReg vf 0x10#8)).reg vf = 0#8 := by decide
/-- I-5. -/
theorem test_ldI : (after (start 0xAFFF)).i = 0x0FFF#16 := by decide
/-- I-7: with nn = 0 the result is 0 for any draw. -/
theorem test_rnd_zero : (after (start 0xC300)).reg 3#4 = 0#8 := by
  show Config.rngByte 0 &&& 0#8 = 0#8
  simp
/-- I-8: with nn = FF the result is the draw. -/
theorem test_rnd_all : (after (start 0xC3FF)).reg 3#4 = Config.rngByte 0 := by
  show Config.rngByte 0 &&& 0xFF#8 = Config.rngByte 0
  exact BitVec.and_allOnes

/-! Arithmetic and logic: V1 and V2 unless named -/

/-- Two operands in V1 and V2, and VF. -/
def operands (w : Nat) (a b f : Byte) : State := (((start w).setReg 1#4 a).setReg 2#4 b).setReg vf f

/-- A-1. -/
theorem test_ldReg : (after (operands 0x8120 0#8 0x5A#8 0#8)).reg 1#4 = 0x5A#8 := by decide
/-- A-2. -/
theorem test_orReg :
    (after (operands 0x8121 0xF0#8 0x0F#8 7#8)).reg 1#4 = 0xFF#8 ∧
      (after (operands 0x8121 0xF0#8 0x0F#8 7#8)).reg vf = 7#8 := by decide
/-- A-3. -/
theorem test_andReg :
    (after (operands 0x8122 0xF3#8 0x3F#8 7#8)).reg 1#4 = 0x33#8 ∧
      (after (operands 0x8122 0xF3#8 0x3F#8 7#8)).reg vf = 7#8 := by decide
/-- A-4. -/
theorem test_xorReg :
    (after (operands 0x8123 0xFF#8 0x0F#8 7#8)).reg 1#4 = 0xF0#8 ∧
      (after (operands 0x8123 0xFF#8 0x0F#8 7#8)).reg vf = 7#8 := by decide
/-- A-9: the old VF is the operand. -/
theorem test_addReg_vf_operand :
    (after (operands 0x81F4 0x10#8 0#8 1#8)).reg 1#4 = 0x11#8 ∧
      (after (operands 0x81F4 0x10#8 0#8 1#8)).reg vf = 0#8 := by decide
/-- A-10 and A-11: VF as destination, under either order. -/
theorem test_addReg_vf_dest :
    (after (operands 0x8F24 0#8 0x20#8 0xF0#8)).reg vf = 0x10#8 ∧
      (after (withOther (operands 0x8F24 0#8 0x20#8 0xF0#8))).reg vf = 1#8 := by decide
/-- L1.2, equal operands. -/
theorem test_subReg_equal :
    (after (operands 0x8125 5#8 5#8 0#8)).reg 1#4 = 0#8 ∧ (after (operands 0x8125 5#8 5#8 0#8)).reg vf = 1#8 := by decide
/-- A-12. -/
theorem test_subReg_borrow :
    (after (operands 0x8125 0#8 0xFF#8 9#8)).reg 1#4 = 1#8 ∧ (after (operands 0x8125 0#8 0xFF#8 9#8)).reg vf = 0#8 := by
  decide
/-- A-19: V2 is ignored. -/
theorem test_shr :
    (after (operands 0x8126 5#8 0xF0#8 0#8)).reg 1#4 = 2#8 ∧ (after (operands 0x8126 5#8 0xF0#8 0#8)).reg vf = 1#8 := by
  decide
/-- L1.2, SUBNXY 5, 3. -/
theorem test_subnReg :
    (after (operands 0x8127 5#8 3#8 9#8)).reg 1#4 = 0xFE#8 ∧ (after (operands 0x8127 5#8 3#8 9#8)).reg vf = 0#8 := by
  decide
/-- A-22. -/
theorem test_shl :
    (after (operands 0x810E 0x81#8 0#8 0#8)).reg 1#4 = 2#8 ∧ (after (operands 0x810E 0x81#8 0#8 0#8)).reg vf = 1#8 := by
  decide
/-- A-23. -/
theorem test_shl_reference_zero : (after (withOther (operands 0x810E 0x81#8 0#8 1#8))).reg vf = 0#8 := by decide

/-! Display -/

/-- D-1. -/
theorem test_cls :
    (after { start 0x00E0 with redraw := false, fb := Framebuffer.setPixel State.reset.fb 31 63 1#8 }).pixel 31 63 = 0#8 ∧
      (after { start 0x00E0 with redraw := false }).redraw = true := by decide
/-- D-2: glyph 0 at the origin. -/
theorem test_drw :
    (after (start 0xD015)).fb[0].toList.take 6 = [1#8, 1#8, 1#8, 1#8, 0#8, 0#8] ∧
      (after (start 0xD015)).fb[1].toList.take 6 = [1#8, 0#8, 0#8, 1#8, 0#8, 0#8] ∧
      (after (start 0xD015)).reg vf = 0#8 := by decide
/-- P4, one row: glyph 5's first row at column 62, row 30 lands on columns 62, 63, 0, 1; a set pixel collides. -/
theorem test_drw_wraps :
    let s := { ((start 0xD011).setReg 0#4 62#8).setReg 1#4 30#8 with
      i := 0x019#16, fb := Framebuffer.setPixel State.reset.fb 30 0 1#8 }
    (after s).pixel 30 62 = 1#8 ∧ (after s).pixel 30 1 = 1#8 ∧ (after s).pixel 30 0 = 0#8 ∧ (after s).reg vf = 1#8 := by
  decide
/-- D-5. -/
theorem test_drw_fault :
    (after ((start 0xD013).setI 0xFFE#16)).fault = at200 (.memOutOfRange 0x1000) 0xD013#16 := by decide
/-- D-4: no row, no memory read, VF = 0. -/
theorem test_drw_no_row :
    (after (((start 0xD010).setI 0xFFFF#16).setReg vf 5#8)).reg vf = 0#8 ∧
      (after (((start 0xD010).setI 0xFFFF#16).setReg vf 5#8)).fault = none := by decide
/-- D-10 and D-11. -/
theorem test_ldF :
    (after ((start 0xF229).setReg 2#4 0x1F#8)).i = 0x09B#16 ∧
      (after (withOther ((start 0xF229).setReg 2#4 0x1F#8))).i = 0x04B#16 := by decide

/-! Keypad -/

/-- K-1. -/
theorem test_skp : (after (press ((start 0xE59E).setReg 5#4 0xA#8) 10)).pc = 0x204#16 := by decide
/-- K-5. -/
theorem test_skp_fault :
    (after ((start 0xE59E).setReg 5#4 0x10#8)).fault = at200 (.keyOutOfRange 0x10#8) 0xE59E#16 := by decide
/-- K-3. -/
theorem test_sknp : (after ((start 0xE5A1).setReg 5#4 0xA#8)).pc = 0x204#16 := by decide
/-- K-6. -/
theorem test_ldVxK_waits : (after (start 0xF40A)).pc = 0x200#16 := by decide
/-- K-7. -/
theorem test_ldVxK :
    (after (press (press (start 0xF40A) 9) 3)).reg 4#4 = 3#8 ∧ (after (press (press (start 0xF40A) 9) 3)).pc = 0x202#16 := by
  decide

/-! Timers -/

/-- T-3. -/
theorem test_ldVxDt : (after ((start 0xF307).setDT 0x3C#8)).reg 3#4 = 0x3C#8 := by decide
/-- T-1. -/
theorem test_ldDtVx : (after ((start 0xF315).setReg 3#4 5#8)).dt = 5#8 := by decide
/-- T-2. -/
theorem test_ldStVx : (after ((start 0xF318).setReg 3#4 2#8)).st = 2#8 := by decide

/-! Memory blocks -/

/-- M-2: no fault, no wrap at 12 bits. -/
theorem test_addI : (after (((start 0xF11E).setI 0x0FFF#16).setReg 1#4 1#8)).i = 0x1000#16 := by decide
/-- M-4. -/
theorem test_addI_wraps : (after (((start 0xF11E).setI 0xFFFF#16).setReg 1#4 1#8)).i = 0#16 := by decide
/-- L1.6. -/
theorem test_ldB :
    (after (((start 0xF033).setI 0x300#16).setReg 0#4 0xEA#8)).bytesAt 0x300 3 = [2#8, 3#8, 4#8] := by decide
/-- M-7. -/
theorem test_ldB_fault :
    (after (((start 0xF033).setI 0xFFE#16).setReg 0#4 0xFF#8)).fault = at200 (.memOutOfRange 0x1000) 0xF033#16 ∧
      (after (((start 0xF033).setI 0xFFE#16).setReg 0#4 0xFF#8)).byteAt 0xFFE = 0#8 := by decide
/-- M-10. -/
theorem test_storeRegs :
    (after ((((start 0xF255).setI 0xFFD#16).setReg 0#4 1#8).setReg 1#4 2#8)).bytesAt 0xFFD 3 = [1#8, 2#8, 0#8] := by decide
/-- H-1, first half: a store over the next word is what is fetched next. -/
theorem test_store_then_fetch :
    (after (((start 0xF055).setI 0x202#16).setReg 0#4 0x12#8)).fetch = some 0x1200#16 := by decide
/-- M-12: the default glyph 0. -/
theorem test_loadRegs :
    (after (start 0xF465)).regsList 6 = [0xF0#8, 0x90#8, 0x90#8, 0x90#8, 0xF0#8, 0#8] := by decide
/-- M-14. -/
theorem test_loadRegs_fault :
    (after ((start 0xFF65).setI 0xFF1#16)).fault = at200 (.memOutOfRange 0x1000) 0xFF65#16 := by decide

/-! The host -/

/-- T-4. -/
theorem test_tick : ((State.reset.setDT 1#8).tickTimers).dt = 0#8 ∧ ((State.reset.setDT 1#8).tickTimers).st = 0#8 := by
  decide
/-- R-2: the gap is zeroed, the program kept. -/
theorem test_warm_reset :
    (((State.reset.setByte 0x100 0x77#8).setByte 0x300 0x77#8).warmReset).byteAt 0x100 = 0#8 ∧
      (((State.reset.setByte 0x100 0x77#8).setByte 0x300 0x77#8).warmReset).byteAt 0x300 = 0x77#8 := by decide
/-- R-3: the font is given back. -/
theorem test_warm_reset_font : ((State.reset.setByte 0 0#8).warmReset).byteAt 0 = 0xF0#8 := by decide
/-- R-4. -/
theorem test_warm_reset_clears_fault : (after (start 0x00EE)).warmReset.fault = none := by decide
/-- P1's bytes, loaded at 0x200. -/
theorem test_load :
    (State.reset.loadRom [0x60#8, 0x05#8, 0x70#8, 0x05#8]).map (fun s => s.bytesAt 0x1FF 6) =
      some [0#8, 0x60#8, 0x05#8, 0x70#8, 0x05#8, 0#8] := by decide
/-- A write of the reset contents is not listed (R33's first byte is F0). -/
theorem test_write_back : ((State.reset.setByte 0 0x11#8).setByte 0 0xF0#8).mem = [] := by decide
/-- The cells stay sorted. -/
theorem test_write_sorted :
    ((State.reset.setByte 0x300 1#8).setByte 0x200 2#8).mem = [(0x200, 2#8), (0x300, 1#8)] := by decide

/-! A witness for the hypotheses of every statement that has some, with one at each end of a range -/

theorem wit_EncodedInstructionDecodes : (Instr.sys 0x0EF#12).wf = true ∧ (Instr.unmappedF 0#4 0x66#8).wf = true := by decide

theorem wit_EveryWordHasOneInstruction : Instr.wf (.drw 15#4 15#4 15#4) = true ∧ encode (.drw 15#4 15#4 15#4) = 0xDFFF#16 := by
  decide

theorem wit_StepRunsTheDecodedInstruction :
    let s := (State.reset.jump 0xFFE#16).withFetchWord 16 0x6105
    s.fault = none ∧ s.pc.toNat ≤ 0xFFE ∧
      decodeBytes [s.byteAt s.pc.toNat, s.byteAt (s.pc.toNat + 1)] = .ok (.ldImm 1#4 5#8, []) ∧
      (0x6105#16).toNat = 256 * (s.byteAt s.pc.toNat).toNat + (s.byteAt (s.pc.toNat + 1)).toNat :=
  ⟨rfl, by decide, rfl, by decide⟩

/-- The clause with a fault: RET at reset. -/
theorem wit_StepRunsTheDecodedInstruction_faulting :
    ∃ t r, exec .ret { start 0x00EE with opcode := 0x00EE#16 } = .next t ∧ t.fault = some r := ⟨_, _, rfl, rfl⟩

theorem wit_PcFaultExactlyAtFetch :
    (State.reset.jump 0xFFF#16).fault = none ∧ 0xFFE < (State.reset.jump 0xFFF#16).pc.toNat ∧
      (start 0x00EE).pc.toNat ≤ 0xFFE ∧ ∃ t r, step (start 0x00EE) = .next t ∧ t.fault = some r :=
  ⟨rfl, by decide, by decide, _, _, rfl, rfl⟩

theorem wit_FaultedCoreIsStopped :
    ∃ r, (after (start 0x00EE)).fault = some r ∧ ∃ t, HostOp.apply .tick (after (start 0x00EE)) = some t :=
  ⟨_, rfl, _, rfl⟩

theorem wit_UnfaultedCoreAlwaysSteps : State.reset.fault = none := rfl

theorem wit_FaultsArePrecise :
    (∃ t r, step (start 0x00EE) = .next t ∧ t.fault = some r) ∧
      ∃ t r, step (State.reset.jump 0xFFF#16) = .next t ∧ t.fault = some r ∧ 0xFFE < (State.reset.jump 0xFFF#16).pc.toNat :=
  ⟨⟨_, _, rfl, rfl⟩, _, _, rfl, rfl, by decide⟩

theorem wit_InstructionFaultConditions :
    faultOf (.skp 0#4) (State.reset.setReg 0#4 16#8) = some (.keyOutOfRange 16#8) ∧
      faultOf (.skp 0#4) (State.reset.setReg 0#4 15#8) = none ∧
      faultOf (.storeRegs 0#4) (State.reset.setI 0xFFF#16) = none ∧
      faultOf (.storeRegs 0#4) (State.reset.setI 0x1000#16) = some (.memOutOfRange 0x1000) := by decide

theorem wit_PcAdvancesByClass :
    faultOf .ret { State.reset with sp := 1 } = none ∧ faultOf (.call 0#12) { State.reset with sp := 15 } = none := by decide

theorem wit_StepIgnoresRunFlag :
    (∃ t, step State.reset = .next t) ∧ ∃ f, step (after (start 0x00EE)) = .fault f := ⟨⟨_, rfl⟩, _, rfl⟩

/-- Reset meets the invariant: the witness of the three statements that assume it. -/
theorem wit_StepKeepsMachineInvariant : State.reset.Inv ∧ ∃ t, step State.reset = .next t := by
  refine ⟨⟨rfl, ?_, by decide, by decide, fun r h => by cases h⟩, _, rfl⟩
  intro y x
  left
  simp [State.pixel, Framebuffer.pixel, State.reset, resetPixel]

theorem test_reset_inv_all_parameters (c : Config) : ({ State.reset with cfg := c } : State).Inv := by
  obtain ⟨_, hp, hpc, hs, hf⟩ := wit_StepKeepsMachineInvariant.1
  exact ⟨rfl, hp, hpc, hs, hf⟩

theorem wit_HostOperationsKeepMachineInvariant :
    State.reset.Inv ∧ ∃ t, HostOp.apply (.load [0x12#8, 0x00#8]) State.reset = some t :=
  ⟨wit_StepKeepsMachineInvariant.1, _, rfl⟩

theorem wit_EveryInterleavingKeepsMachineInvariant :
    (∃ s, runEvents [.host (.load [0x12#8, 0x00#8]), .core, .host .tick] State.reset = some s) ∧
      ∃ s, runEvents [.host .warmReset, .core, .core] { State.reset with cfg := (withOther State.reset).cfg } = some s :=
  ⟨⟨_, rfl⟩, _, rfl⟩

theorem wit_CanonicalMemoriesWithEqualReadsAreEqual :
    Memory.wf defaultFont [(0, 1#8), (0xFFF, 2#8)] = true ∧
      ∀ a, a ≤ 0xFFF → Memory.read defaultFont [(0, 1#8), (0xFFF, 2#8)] a = Memory.read defaultFont [(0, 1#8), (0xFFF, 2#8)] a :=
  ⟨by decide, fun _ _ => rfl⟩

theorem wit_RegistersOutsideDestinationsKept :
    ∃ t, exec (.loadRegs 2#4) State.reset = .next t ∧ (3#4 : Nibble) ∉ destsOf (.loadRegs 2#4) := ⟨_, rfl, by decide⟩

/-- Every clause's premise: a CLS writes no memory, no I, no stack, no timer; a RET no entry and no pixel; an ADD I no
stack pointer. -/
theorem wit_OnlyNamedInstructionsWrite :
    (∃ t, exec .cls State.reset = .next t) ∧ (∀ x, Instr.cls ≠ .ldB x ∧ Instr.cls ≠ .storeRegs x) ∧
      (∀ x nnn, Instr.cls ≠ .ldI nnn ∧ Instr.cls ≠ .addI x ∧ Instr.cls ≠ .ldF x) ∧ (∀ nnn, Instr.cls ≠ .call nnn) ∧
      Instr.cls ≠ .ret ∧ (∀ x, Instr.cls ≠ .ldDtVx x ∧ Instr.cls ≠ .ldStVx x) ∧ (∀ x nn, Instr.cls ≠ .rnd x nn) ∧
      Instr.ret ≠ .cls ∧ (∀ x y n, Instr.ret ≠ .drw x y n) ∧ State.reset.redraw = true := by
  simp [State.reset, resetRedraw, exec, execCls]

theorem wit_SysOnlyAdvances :
    State.reset.fault = none ∧ State.reset.pc.toNat ≤ 0xFFE ∧ State.reset.byteAt State.reset.pc.toNat = 0#8 ∧
      State.reset.byteAt (State.reset.pc.toNat + 1) = 0#8 := by decide

theorem wit_UnmappedWordsFollowThePolicy :
    State.reset.cfg.unmappedPolicy = .nop ∧ (withOther State.reset).cfg.unmappedPolicy = .fault := by decide

/-- Of the statements about CALL with a free entry, at both ends of the stack. -/
theorem wit_CallPushesItsAddress : State.reset.sp.val < 16 ∧ ({ State.reset with sp := 15 } : State).sp.val < 16 := by decide

theorem wit_CallThenRetReturns : ({ State.reset with sp := 15 } : State).sp.val < 16 := by decide

theorem wit_RetPopsAndAddsTwo :
    State.reset.sp.val = 0 ∧ ({ State.reset with sp := 1 } : State).sp.val = (0 : Fin 16).val + 1 ∧
      ({ State.reset with sp := 16 } : State).sp.val = (15 : Fin 16).val + 1 := by decide

theorem wit_CallBeyondSixteenFaults : ({ State.reset with sp := 16 } : State).sp.val = 16 := by decide

theorem wit_FinishedProgramStaysFinished : (start 0x1200).finished := ⟨rfl, 0x200#12, by decide, by decide⟩

theorem wit_IndexRegisterWrites (s : State) :
    ∀ i ∈ [Instr.ldI 0xFFF#12, .addI 15#4, .ldF 15#4], ∃ v, (i, v) ∈ [(Instr.ldI 0xFFF#12, (0xFFF#12).toNat),
      (.addI 15#4, (s.i.toNat + (s.reg 15#4).toNat) % 65536),
      (.ldF 15#4, (if s.cfg.fontDigitMode = .masked then (s.reg 15#4).toNat % 16 else (s.reg 15#4).toNat) * 5)] := by
  simp

/-- Of the three statements about a flag beside another destination. -/
theorem wit_AddSetsCarry : (0#4 : Nibble) ≠ vf ∧ (14#4 : Nibble) ≠ vf := by decide

theorem wit_SubtractSetsNoBorrow : (14#4 : Nibble) ≠ vf := by decide

theorem wit_ShiftsSetTheBitShiftedOut : (14#4 : Nibble) ≠ vf := by decide

theorem wit_FlagDestinationFollowsWriteOrder :
    (Instr.shr vf 0#4, (State.reset.reg vf).toNat / 2, (State.reset.reg vf).toNat % 2) = (Instr.shr vf 0#4, 0, 0) := by decide

/-- No row with I out of memory, and fifteen rows that end at 0xFFF. -/
theorem wit_DrawXorsTheSprite :
    (0#4 : Nibble).toNat = 0 ∧ (State.reset.setI 0xFF1#16).i.toNat + (15#4 : Nibble).toNat - 1 ≤ 0xFFF := by decide

/-- A draw of glyph 0 at the origin of a clear screen, and the same draw in the state it leaves. -/
theorem wit_DrawTwiceRestoresTheScreen :
    ∃ s' t', exec (.drw 0#4 1#4 5#4) State.reset = .next s' ∧ s'.fault = none ∧ s'.i = State.reset.i ∧
      sameBytes State.reset s' ∧ s'.reg 0#4 = State.reset.reg 0#4 ∧ s'.reg 1#4 = State.reset.reg 1#4 ∧
      exec (.drw 0#4 1#4 5#4) s' = .next t' ∧ t'.fault = none :=
  ⟨_, _, rfl, rfl, rfl, fun _ => rfl, rfl, rfl, rfl, rfl⟩

theorem wit_KeySkipsFollowTheKey :
    (State.reset.reg 0#4).toNat = (0 : Fin 16).val ∧ ((State.reset.setReg 0#4 15#8).reg 0#4).toNat = (15 : Fin 16).val := by
  decide

theorem wit_KeyIndexAboveFifteenFaults :
    15 < ((State.reset.setReg 0#4 16#8).reg 0#4).toNat ∧ 15 < ((State.reset.setReg 0#4 255#8).reg 0#4).toNat := by decide

theorem wit_KeyWaitTakesTheLowestKey :
    (∀ k : Fin 16, State.reset.key[k] = false) ∧ (press State.reset 15).key[(15 : Fin 16)] = true ∧
      (∀ j : Fin 16, j < 15 → (press State.reset 15).key[j] = false) ∧ (press State.reset 0).key[(0 : Fin 16)] = true ∧
      ∀ j : Fin 16, j < 0 → (press State.reset 0).key[j] = false := by decide

theorem wit_BcdStoresDigits :
    (State.reset.setI 0xFFD#16).i.toNat + 2 ≤ 0xFFF ∧ 0xFFF < (State.reset.setI 0xFFE#16).i.toNat + 2 := by decide

theorem wit_RegistersAreStored :
    (State.reset.setI 0xFF0#16).i.toNat + (15#4 : Nibble).toNat ≤ 0xFFF ∧
      0xFFF < (State.reset.setI 0xFF1#16).i.toNat + (15#4 : Nibble).toNat := by decide

theorem wit_RegistersAreLoaded :
    (State.reset.setI 0xFFF#16).i.toNat + (0#4 : Nibble).toNat ≤ 0xFFF ∧
      0xFFF < (State.reset.setI 0x1000#16).i.toNat + (0#4 : Nibble).toNat := by decide

theorem wit_BlockPastMemoryFaults :
    (∃ a, (State.reset.setI 0xFFE#16).i.toNat ≤ a ∧ a < (State.reset.setI 0xFFE#16).i.toNat + 3 ∧ 0xFFF < a) ∧
      ∃ a, (State.reset.setI 0xFFFF#16).i.toNat ≤ a ∧ a < (State.reset.setI 0xFFFF#16).i.toNat + 1 ∧ 0xFFF < a :=
  ⟨⟨0x1000, by decide⟩, 0xFFFF, by decide⟩

theorem wit_StoredWordIsFetchedNext :
    (State.reset.setI 0x202#16).i.toNat + (1#4 : Nibble).toNat ≤ 0xFFF ∧ (1#4 : Nibble).toNat = (0#4 : Nibble).toNat + 1 ∧
      (State.reset.setI 0x202#16).i.toNat + (0#4 : Nibble).toNat = (State.reset.setI 0x202#16).pc.toNat + 2 := by decide

theorem wit_LoaderWritesTheRom :
    ([] : List Byte).length ≤ 4096 - 0x200 ∧ (List.replicate 3584 (0#8 : Byte)).length ≤ 4096 - 0x200 :=
  ⟨by decide, by rw [List.length_replicate]⟩

theorem wit_MoveAndLogicWithoutFlag :
    (Instr.xorReg 0#4 15#4, fun a b : Bool => a != b) ∈ [(Instr.ldReg 0#4 15#4, fun (_ b : Bool) => b),
      (.orReg 0#4 15#4, fun a b => a || b), (.andReg 0#4 15#4, fun a b => a && b), (.xorReg 0#4 15#4, fun a b => a != b)] := by
  simp

theorem wit_ColdStartValues : ∃ t, t = (start 0x00EE).coldStart ∧ t.fault = none := ⟨_, rfl, rfl⟩

theorem wit_WarmResetKeepsTheProgram :
    (start 0x6001).warmReset.byteAt 0x200 = 0x60#8 ∧ ((start 0x6001).setByte 0x1FF 7#8).warmReset.byteAt 0x1FF = 0#8 := by
  decide

end Sys2Proof.Tests
end

section
/-! SUPPORT. Instructions that write one general register and advance pc (spec 42_register_immediate.md R170, R125). -/

namespace Sys2Proof.Machine

theorem exec_ldImm (x : Nibble) (nn : Byte) (s : State) : exec (.ldImm x nn) s = .next (s.setReg x nn).advance := rfl

theorem State.toNat_advance_pc (s : State) : s.advance.pc.toNat = (s.pc.toNat + 2) % 65536 := by
  rw [State.advance_pc, BitVec.toNat_add]
  rfl

/-- The frame of every instruction that writes one register: VF is kept too, unless it is that register. -/
theorem changesOnly_setReg_advance (s : State) (x : Nibble) (b : Byte) :
    changesOnly [x] s (s.setReg x b).advance := by
  have hregs : sameRegsBut [x] s (s.setReg x b).advance := fun r hr => by
    have hne : r ≠ x := by simpa using hr
    rw [State.advance_reg, State.reg_setReg, if_neg hne]
  refine ⟨hregs, ?_⟩
  simp [sameBytes, sameStack, sameTimers, sameDisplay, sameControl]

/-- Settles O29: the state after is the register write followed by the advance, for every x, VF included. -/
theorem loadImmediate : Obligations.LoadImmediate := by
  intro x nn s
  have hreg : (s.setReg x nn).advance.reg x = nn := by
    rw [State.advance_reg, State.reg_setReg, if_pos rfl]
  have hpc : (s.setReg x nn).advance.pc.toNat = (s.pc.toNat + 2) % 65536 := by
    rw [State.toNat_advance_pc, State.setReg_pc]
  exact ⟨(s.setReg x nn).advance, exec_ldImm x nn s, hreg, hpc, changesOnly_setReg_advance s x nn⟩

end Sys2Proof.Machine
end

section
/-! SUPPORT. Clearing the screen (spec 44_display.md R220): the framebuffer and the redraw flag change, pc advances. -/

namespace Sys2Proof.Machine

theorem exec_cls (s : State) : exec .cls s = .next (s.show Framebuffer.clear).advance := rfl

theorem State.pixel_show (s : State) (fb : Framebuffer) (y : Fin 32) (x : Fin 64) :
    (s.show fb).pixel y x = Framebuffer.pixel fb y x := rfl

theorem sameRegsBut_show_advance (s : State) (fb : Framebuffer) : sameRegsBut [] s (s.show fb).advance := fun r _ => by
  rw [State.advance_reg, State.show_reg]

/-- Settles O38: the state after shows the clear framebuffer and advances; neither update writes a register, so VF is
kept with the rest. -/
theorem clearScreen : Obligations.ClearScreen := by
  intro s
  have hpixels : ∀ py px, (s.show Framebuffer.clear).advance.pixel py px = 0#8 := fun py px => by
    rw [State.advance_pixel, State.pixel_show, Framebuffer.pixel_clear]
  have hredraw : (s.show Framebuffer.clear).advance.redraw = true := by
    rw [State.advance_redraw, State.show_redraw]
  have hpc : (s.show Framebuffer.clear).advance.pc.toNat = (s.pc.toNat + 2) % 65536 := by
    rw [State.toNat_advance_pc, State.show_pc]
  refine ⟨(s.show Framebuffer.clear).advance, exec_cls s, hpixels, hredraw, hpc, sameRegsBut_show_advance s _, ?_⟩
  simp [sameBytes, sameStack, sameTimers, sameControl]

end Sys2Proof.Machine
end

section
/-! SUPPORT. Memory-block instructions (spec 47_memory_block.md R271 to R273): the block is checked first (D8), then a
store writes only its bytes and a load only its registers, and pc advances. -/

namespace Sys2Proof.Machine

variable (s : State)

theorem exec_ldB (x : Nibble) :
    exec (.ldB x) s = s.guard (memFault s.i.toNat 3) (s.setBytes s.i.toNat (bcdDigits (s.reg x))).advance := rfl

theorem exec_storeRegs (x : Nibble) :
    exec (.storeRegs x) s =
      s.guard (memFault s.i.toNat (x.toNat + 1)) (s.setBytes s.i.toNat (s.regsList (x.toNat + 1))).advance := rfl

theorem exec_loadRegs (x : Nibble) :
    exec (.loadRegs x) s =
      s.guard (memFault s.i.toNat (x.toNat + 1)) (s.loadFrom s.i.toNat (x.toNat + 1)).advance := rfl

/-! The check before the first access -/

theorem State.guard_memFault_of_past (k : Nat) (t : State) (h : 0xFFF < s.i.toNat + k) :
    s.guard (memFault s.i.toNat (k + 1)) t =
      .next { s with fault := some ⟨.memOutOfRange (max s.i.toNat 0x1000), s.pc, s.opcode⟩ } := by
  have hfault : memFault s.i.toNat (k + 1) = some (.memOutOfRange (max s.i.toNat (memTop + 1))) :=
    (memFault_eq_some _ _ _).2 ⟨⟨k.succ_pos, h⟩, rfl⟩
  rw [State.guard_eq, hfault]
  rfl

theorem State.guard_memFault_of_inside (k : Nat) (t : State) (h : s.i.toNat + k ≤ 0xFFF) :
    s.guard (memFault s.i.toNat (k + 1)) t = .next t := by
  have hfault : memFault s.i.toNat (k + 1) = none := (memFault_eq_none _ _).2 (.inr h)
  rw [State.guard_eq, hfault]

/-! What a block store writes and leaves -/

/-- Everything but memory and pc is as before. -/
def sameButMemory (s t : State) : Prop :=
  sameRegsBut [] s t ∧ t.i = s.i ∧ sameStack s t ∧ sameTimers s t ∧ sameDisplay s t ∧ sameControl s t ∧
    t.draws = s.draws

theorem sameButMemory_setBytes_advance (a : Nat) (xs : List Byte) :
    sameButMemory s (s.setBytes a xs).advance := by
  simp [sameButMemory, sameRegsBut, sameStack, sameTimers, sameDisplay, sameControl]

theorem sameBytesBut_setBytes_advance (a n : Nat) (xs : List Byte) (hlen : xs.length = n) :
    sameBytesBut a n s (s.setBytes a xs).advance := fun c hc => by
  rw [State.advance_byteAt, State.byteAt_setBytes, if_neg (by omega)]

theorem State.toNat_setBytes_advance_pc (a : Nat) (xs : List Byte) :
    (s.setBytes a xs).advance.pc.toNat = (s.pc.toNat + 2) % 65536 := by
  rw [State.toNat_advance_pc, State.setBytes_pc]

theorem State.byteAt_setBytes_advance (a : Nat) (xs : List Byte) (k : Nat) (hk : k < xs.length)
    (hmem : a + k ≤ 0xFFF) : (s.setBytes a xs).advance.byteAt (a + k) = xs.getD k 0#8 := by
  have hin : a ≤ a + k ∧ a + k < a + xs.length ∧ a + k ≤ memTop := ⟨by omega, by omega, hmem⟩
  rw [State.advance_byteAt, State.byteAt_setBytes, if_pos hin, Nat.add_sub_cancel_left]

/-- Each decimal digit of a byte fits in a byte, so that nothing is lost when it is stored. -/
theorem toNat_bcdDigits (b : Byte) :
    ((bcdDigits b).getD 0 0#8).toNat = b.toNat / 100 ∧ ((bcdDigits b).getD 1 0#8).toNat = b.toNat / 10 % 10 ∧
      ((bcdDigits b).getD 2 0#8).toNat = b.toNat % 10 := by
  have hb := b.isLt
  simp only [bcdDigits, List.getD_cons_zero, List.getD_cons_succ, BitVec.toNat_ofNat]
  omega

/-- Settles O45: past 0xFFF the check answers; inside, each address reads the digit stored there. -/
theorem bcdStoresDigits : Obligations.BcdStoresDigits := by
  intro x s
  refine ⟨fun hpast => (exec_ldB s x).trans (s.guard_memFault_of_past 2 _ hpast), fun hin => ?_⟩
  obtain ⟨hundreds, tens, ones⟩ := toNat_bcdDigits (s.reg x)
  have hread : ∀ k < 3, ((s.setBytes s.i.toNat (bcdDigits (s.reg x))).advance.byteAt (s.i.toNat + k)).toNat =
      ((bcdDigits (s.reg x)).getD k 0#8).toNat := fun k hk =>
    congrArg BitVec.toNat (s.byteAt_setBytes_advance _ _ k hk (by omega))
  exact ⟨_, (exec_ldB s x).trans (s.guard_memFault_of_inside 2 _ hin), (hread 0 (by decide)).trans hundreds,
    (hread 1 (by decide)).trans tens, (hread 2 (by decide)).trans ones, sameBytesBut_setBytes_advance s _ 3 _ rfl,
    s.toNat_setBytes_advance_pc _ _, sameButMemory_setBytes_advance s _ _⟩

/-- Settles O46: past 0xFFF the check answers; inside, the address of each register up to Vx reads that register. -/
theorem registersAreStored : Obligations.RegistersAreStored := by
  intro x s
  refine ⟨fun hpast => (exec_storeRegs s x).trans (s.guard_memFault_of_past x.toNat _ hpast), fun hin => ?_⟩
  have hlen : (s.regsList (x.toNat + 1)).length = x.toNat + 1 := s.regsList_length _ x.isLt
  have hread : ∀ r : Nibble, r.toNat ≤ x.toNat →
      (s.setBytes s.i.toNat (s.regsList (x.toNat + 1))).advance.byteAt (s.i.toNat + r.toNat) = s.reg r := fun r hr =>
    calc
      _ = (s.regsList (x.toNat + 1)).getD r.toNat 0#8 := s.byteAt_setBytes_advance _ _ _ (by omega) (by omega)
      _ = s.reg (BitVec.ofNat 4 r.toNat) := s.regsList_getD _ _ x.isLt (by omega)
      _ = s.reg r := by rw [BitVec.ofNat_toNat, BitVec.setWidth_eq]
  exact ⟨_, (exec_storeRegs s x).trans (s.guard_memFault_of_inside x.toNat _ hin), hread,
    sameBytesBut_setBytes_advance s _ _ _ hlen, s.toNat_setBytes_advance_pc _ _, sameButMemory_setBytes_advance s _ _⟩

/-- Settles O47: past 0xFFF the check answers; inside, the block load writes the registers up to Vx and no other. -/
theorem registersAreLoaded : Obligations.RegistersAreLoaded := by
  intro x s
  refine ⟨fun hpast => (exec_loadRegs s x).trans (s.guard_memFault_of_past x.toNat _ hpast), fun hin => ?_⟩
  have hreg : ∀ r : Nibble, (s.loadFrom s.i.toNat (x.toNat + 1)).advance.reg r =
      if r.toNat < x.toNat + 1 then s.byteAt (s.i.toNat + r.toNat) else s.reg r := fun r => by
    rw [State.advance_reg, State.reg_loadFrom s _ _ x.isLt]
  have hloaded : ∀ r : Nibble, r.toNat ≤ x.toNat →
      (s.loadFrom s.i.toNat (x.toNat + 1)).advance.reg r = s.byteAt (s.i.toNat + r.toNat) := fun r hr => by
    rw [hreg, if_pos (by omega)]
  have hkept : ∀ r : Nibble, x.toNat < r.toNat →
      (s.loadFrom s.i.toNat (x.toNat + 1)).advance.reg r = s.reg r := fun r hr => by
    rw [hreg, if_neg (by omega)]
  have hpc : (s.loadFrom s.i.toNat (x.toNat + 1)).advance.pc.toNat = (s.pc.toNat + 2) % 65536 := by
    rw [State.toNat_advance_pc, State.loadFrom_pc]
  refine ⟨_, (exec_loadRegs s x).trans (s.guard_memFault_of_inside x.toNat _ hin), hloaded, hkept, hpc, ?_⟩
  simp [sameBytes, sameStack, sameTimers, sameDisplay, sameControl]

end Sys2Proof.Machine
end

section
/-! SUPPORT. The encoder and the decoder undo each other (spec 30_encoding.md R90 to R105). The fields of a word are
read from the four formats of R91, and a word is put together again from its fields. -/

namespace Sys2Proof

/-! The fields of each format -/

section

variable (k x y n : Nibble) (nn : Byte) (nnn : Addr)

@[simp] theorem fieldSlot_address : fieldSlot (k ++ nnn) = k := BitVec.extractLsb'_append_eq_left

@[simp] theorem fieldNNN_address : fieldNNN (k ++ nnn) = nnn := BitVec.extractLsb'_append_eq_right

@[simp] theorem fieldSlot_byte : fieldSlot (k ++ x ++ nn) = k :=
  (BitVec.extractLsb'_append_eq_of_le (by decide)).trans BitVec.extractLsb'_append_eq_left

@[simp] theorem fieldX_byte : fieldX (k ++ x ++ nn) = x :=
  (BitVec.extractLsb'_append_eq_of_le (by decide)).trans BitVec.extractLsb'_append_eq_right

@[simp] theorem fieldNN_byte : fieldNN (k ++ x ++ nn) = nn := BitVec.extractLsb'_append_eq_right

@[simp] theorem fieldSlot_nibbles : fieldSlot (k ++ x ++ y ++ n) = k :=
  (BitVec.extractLsb'_append_eq_of_le (by decide)).trans <|
    (BitVec.extractLsb'_append_eq_of_le (by decide)).trans BitVec.extractLsb'_append_eq_left

@[simp] theorem fieldX_nibbles : fieldX (k ++ x ++ y ++ n) = x :=
  (BitVec.extractLsb'_append_eq_of_le (by decide)).trans <|
    (BitVec.extractLsb'_append_eq_of_le (by decide)).trans BitVec.extractLsb'_append_eq_right

@[simp] theorem fieldY_nibbles : fieldY (k ++ x ++ y ++ n) = y :=
  (BitVec.extractLsb'_append_eq_of_le (by decide)).trans BitVec.extractLsb'_append_eq_right

@[simp] theorem fieldN_nibbles : fieldN (k ++ x ++ y ++ n) = n := BitVec.extractLsb'_append_eq_right

@[simp] theorem fieldLo_nibbles : fieldLo (k ++ x ++ y ++ n) = n.extractLsb' 0 1 :=
  BitVec.extractLsb'_append_eq_of_add_le (by decide)

/-- The two fixed parts of an unmapped row of slot 8 are one low nibble. -/
theorem append_pair (f : BitVec 3) (lo : BitVec 1) :
    (k ++ x ++ y ++ f ++ lo : BitVec (4 + 4 + 4 + 3 + 1)) = k ++ x ++ y ++ (f ++ lo) := BitVec.append_assoc

end

/-! A word from its fields -/

section

variable (w : Word)

theorem word_eq_address : fieldSlot w ++ fieldNNN w = w :=
  (BitVec.extractLsb'_append_extractLsb'_eq_extractLsb' (start₂ := 12) (start₁ := 0) rfl).trans
    BitVec.extractLsb'_eq_self

theorem word_eq_byte : fieldSlot w ++ fieldX w ++ fieldNN w = w := by
  have hhigh : fieldSlot w ++ fieldX w = w.extractLsb' 8 8 :=
    BitVec.extractLsb'_append_extractLsb'_eq_extractLsb' rfl
  rw [hhigh]
  exact (BitVec.extractLsb'_append_extractLsb'_eq_extractLsb' rfl).trans BitVec.extractLsb'_eq_self

theorem word_eq_nibbles : fieldSlot w ++ fieldX w ++ fieldY w ++ fieldN w = w := by
  have hhigh : fieldSlot w ++ fieldX w = w.extractLsb' 8 8 :=
    BitVec.extractLsb'_append_extractLsb'_eq_extractLsb' rfl
  have hmid : w.extractLsb' 8 8 ++ fieldY w = w.extractLsb' 4 12 :=
    BitVec.extractLsb'_append_extractLsb'_eq_extractLsb' rfl
  rw [hhigh, hmid]
  exact (BitVec.extractLsb'_append_extractLsb'_eq_extractLsb' rfl).trans BitVec.extractLsb'_eq_self

theorem fieldLo_eq : fieldLo w = (fieldN w).extractLsb' 0 1 := by
  rw [← word_eq_nibbles w, fieldLo_nibbles, fieldN_nibbles]

end

/-! Encoding, then decoding -/

/-- A SYS at another address than those of CLS and RET is no CLS and no RET (R94). -/
theorem decodeSlot0_sys (nnn : Addr) (h : (Instr.sys nnn).wf = true) : decodeSlot0 (0x0#4 ++ nnn) = .sys nnn := by
  have hne : ∀ (a : Addr) (w : Word), 0x0#4 ++ a = w → nnn ≠ a → 0x0#4 ++ nnn ≠ w := by
    rintro a _ rfl ha heq
    exact ha (by rw [← fieldNNN_address 0x0#4 nnn, heq, fieldNNN_address])
  obtain ⟨hcls, hret⟩ : nnn ≠ 0x0E0#12 ∧ nnn ≠ 0x0EE#12 := by simpa [Instr.wf] using h
  rw [decodeSlot0, if_neg (hne _ 0x00E0#16 rfl hcls), if_neg (hne _ 0x00EE#16 rfl hret), fieldNNN_address]

theorem decodeSlotE_unmapped (x : Nibble) (kk : Byte) (h : (Instr.unmappedE x kk).wf = true) :
    decodeSlotE (0xE#4 ++ x ++ kk) = .unmappedE x kk := by
  obtain ⟨hskp, hsknp⟩ : kk ≠ 0x9E#8 ∧ kk ≠ 0xA1#8 := by simpa [Instr.wf, slotEMapped] using h
  simp [decodeSlotE, hskp, hsknp]

theorem decodeSlotF_unmapped (x : Nibble) (kk : Byte) (h : (Instr.unmappedF x kk).wf = true) :
    decodeSlotF (0xF#4 ++ x ++ kk) = .unmappedF x kk := by
  have hne : kk ∉ slotFMapped := by simpa [Instr.wf] using h
  simp only [slotFMapped, List.mem_cons, List.not_mem_nil, or_false, not_or] at hne
  simp [decodeSlotF, hne]

theorem decodeSlot8_unmapped (x y : Nibble) (lo : BitVec 1) :
    decodeSlot8 (0x8#4 ++ x ++ y ++ 0x4#3 ++ lo) = .unmapped89 x y lo ∧
      decodeSlot8 (0x8#4 ++ x ++ y ++ 0x5#3 ++ lo) = .unmappedAB x y lo ∧
      decodeSlot8 (0x8#4 ++ x ++ y ++ 0x6#3 ++ lo) = .unmappedCD x y lo := by
  have hlo : lo = 0#1 ∨ lo = 1#1 := by revert lo; decide
  rcases hlo with rfl | rfl <;> simp [append_pair, decodeSlot8]

/-- Settles O2: the slot of the word selects the row's decoder, which reads the fields back. The rows that share a
decoder with mapped words need well-formedness, the rows that leave bit 0 open its two values. -/
theorem encodedInstructionDecodes : Obligations.EncodedInstructionDecodes := by
  intro i h
  cases i with
  | cls => rfl
  | ret => rfl
  | sys nnn => simpa [decode, encode] using decodeSlot0_sys nnn h
  | unmappedE x kk => simpa [decode, encode] using decodeSlotE_unmapped x kk h
  | unmappedF x kk => simpa [decode, encode] using decodeSlotF_unmapped x kk h
  | unmapped89 x y lo =>
    obtain ⟨h89, -, -⟩ := decodeSlot8_unmapped x y lo
    simpa [decode, encode, append_pair] using h89
  | unmappedAB x y lo =>
    obtain ⟨-, hAB, -⟩ := decodeSlot8_unmapped x y lo
    simpa [decode, encode, append_pair] using hAB
  | unmappedCD x y lo =>
    obtain ⟨-, -, hCD⟩ := decodeSlot8_unmapped x y lo
    simpa [decode, encode, append_pair] using hCD
  | _ => simp [decode, encode, decodeSlot8, decodeSlotE, decodeSlotF]

/-! Decoding, then encoding -/

/-- The instruction is well-formed and the word is its word. -/
def Instr.standsFor (i : Instr) (w : Word) : Prop := i.wf = true ∧ encode i = w

theorem nibble_cases : ∀ n : Nibble, n = 0x0#4 ∨ n = 0x1#4 ∨ n = 0x2#4 ∨ n = 0x3#4 ∨ n = 0x4#4 ∨ n = 0x5#4 ∨
    n = 0x6#4 ∨ n = 0x7#4 ∨ n = 0x8#4 ∨ n = 0x9#4 ∨ n = 0xA#4 ∨ n = 0xB#4 ∨ n = 0xC#4 ∨ n = 0xD#4 ∨ n = 0xE#4 ∨
    n = 0xF#4 := by decide

section

variable (w : Word)

theorem decodeSlot0_standsFor (h : fieldSlot w = 0x0#4) : (decodeSlot0 w).standsFor w := by
  have hw : 0x0#4 ++ fieldNNN w = w := by rw [← h, word_eq_address]
  unfold decodeSlot0
  split_ifs with hcls hret
  · exact ⟨rfl, hcls.symm⟩
  · exact ⟨rfl, hret.symm⟩
  · have hne : ∀ a : Addr, w ≠ 0x0#4 ++ a → fieldNNN w ≠ a := fun a ha heq => ha (by rw [← heq, hw])
    exact ⟨by simp [Instr.wf, hne 0x0E0#12 hcls, hne 0x0EE#12 hret], hw⟩

theorem decodeSlot8_standsFor (h : fieldSlot w = 0x8#4) : (decodeSlot8 w).standsFor w := by
  have hw : ∀ n, fieldN w = n → 0x8#4 ++ fieldX w ++ fieldY w ++ n = w := by rintro _ rfl; rw [← h, word_eq_nibbles]
  rcases nibble_cases (fieldN w) with h | h | h | h | h | h | h | h | h | h | h | h | h | h | h | h <;>
    simp only [decodeSlot8, h, fieldLo_eq] <;> exact ⟨rfl, by simpa [encode, append_pair] using hw _ h⟩

theorem decodeSlotE_standsFor (h : fieldSlot w = 0xE#4) : (decodeSlotE w).standsFor w := by
  have hw : ∀ b, fieldNN w = b → 0xE#4 ++ fieldX w ++ b = w := by rintro _ rfl; rw [← h, word_eq_byte]
  unfold decodeSlotE
  split_ifs with hskp hsknp
  · exact ⟨rfl, hw _ hskp⟩
  · exact ⟨rfl, hw _ hsknp⟩
  · exact ⟨by simp [Instr.wf, slotEMapped, hskp, hsknp], hw _ rfl⟩

theorem decodeSlotF_standsFor (h : fieldSlot w = 0xF#4) : (decodeSlotF w).standsFor w := by
  have hw : ∀ b, fieldNN w = b → 0xF#4 ++ fieldX w ++ b = w := by rintro _ rfl; rw [← h, word_eq_byte]
  unfold decodeSlotF
  split_ifs
  case neg => exact ⟨by simp [Instr.wf, slotFMapped, *], hw _ rfl⟩
  all_goals exact ⟨rfl, hw _ ‹_›⟩

theorem decode_standsFor : (decode w).standsFor w := by
  have haddress : ∀ k, fieldSlot w = k → k ++ fieldNNN w = w := by rintro _ rfl; exact word_eq_address w
  have hbyte : ∀ k, fieldSlot w = k → k ++ fieldX w ++ fieldNN w = w := by rintro _ rfl; exact word_eq_byte w
  have hnibbles : ∀ k, fieldSlot w = k → k ++ fieldX w ++ fieldY w ++ fieldN w = w := by
    rintro _ rfl; exact word_eq_nibbles w
  rcases nibble_cases (fieldSlot w) with h | h | h | h | h | h | h | h | h | h | h | h | h | h | h | h <;>
    simp only [decode, h]
  exacts [decodeSlot0_standsFor w h, ⟨rfl, haddress _ h⟩, ⟨rfl, haddress _ h⟩, ⟨rfl, hbyte _ h⟩, ⟨rfl, hbyte _ h⟩,
    ⟨rfl, hnibbles _ h⟩, ⟨rfl, hbyte _ h⟩, ⟨rfl, hbyte _ h⟩, decodeSlot8_standsFor w h, ⟨rfl, hnibbles _ h⟩,
    ⟨rfl, haddress _ h⟩, ⟨rfl, haddress _ h⟩, ⟨rfl, hbyte _ h⟩, ⟨rfl, hnibbles _ h⟩, decodeSlotE_standsFor w h,
    decodeSlotF_standsFor w h]

end

/-- Settles O3: the fields of a word put it together again; an instruction for the same word is what it decodes to. -/
theorem everyWordHasOneInstruction : Obligations.EveryWordHasOneInstruction := by
  intro w
  obtain ⟨hwf, hencode⟩ := decode_standsFor w
  refine ⟨hwf, hencode, fun i hi hw => ?_⟩
  rw [← hw, encodedInstructionDecodes i hi]

/-- Settles O1: the decoder runs on the words of the statement. -/
theorem specWordsDecode : Obligations.SpecWordsDecode := by
  unfold Obligations.SpecWordsDecode
  and_intros <;> rfl

/-- Settles O4: the two words of each pair decode to terms that differ only in an operand `exec` does not pass on. -/
theorem ignoredBitsChangeNothing : Obligations.IgnoredBitsChangeNothing := by
  intro x y n m s
  have hse : ∀ n, decode (0x5#4 ++ x ++ y ++ n) = .seReg x y n := fun n => encodedInstructionDecodes (.seReg x y n) rfl
  have hsne : ∀ n, decode (0x9#4 ++ x ++ y ++ n) = .sneReg x y n := fun n =>
    encodedInstructionDecodes (.sneReg x y n) rfl
  have hshr : ∀ n, decode (0x8#4 ++ x ++ n ++ 0x6#4) = .shr x n := fun n => encodedInstructionDecodes (.shr x n) rfl
  have hshl : ∀ n, decode (0x8#4 ++ x ++ n ++ 0xE#4) = .shl x n := fun n => encodedInstructionDecodes (.shl x n) rfl
  rw [hse n, hse m, hsne n, hsne m, hshr n, hshr m, hshl n, hshl m]
  exact ⟨rfl, rfl, rfl, rfl⟩

end Sys2Proof
end

section
/-! SUPPORT. What every instruction does, said once: it meets the fault `faultOf` names, or it completes with what
`written` says it writes beside pc and with the pc `nextPcOf` gives it (spec 40_fetch_dispatch.md R125, 60_exceptions.md
R300, R301). -/

namespace Sys2Proof.Machine

/-- The state after a push of `w` where an entry is free (R142). -/
def State.pushed (s : State) (w : Word) : State :=
  { s with
    stack := if h : s.sp.val < 16 then s.stack.set s.sp.val w h else s.stack
    sp := if h : s.sp.val < 16 then ⟨s.sp.val + 1, Nat.succ_lt_succ h⟩ else s.sp }

/-- The state after a pop where an entry is in use (R140). -/
def State.popped (s : State) : State := { s with sp := ⟨s.sp.val - 1, by omega⟩ }

/-- The state after the key wait, before pc: Vx holds the lowest pressed key's index where a key is pressed (R242). -/
def State.keyTaken (s : State) (x : Nibble) : State :=
  { s with v := s.lowestPressed.elim s.v fun k => s.v.set x.toNat (BitVec.ofNat 8 k) x.isLt }

theorem State.keyTaken_of_none (s : State) (x : Nibble) (h : s.lowestPressed = none) : s.keyTaken x = s := by
  simp [State.keyTaken, h]

theorem State.keyTaken_of_some (s : State) (x : Nibble) (k : Nat) (h : s.lowestPressed = some k) :
    s.keyTaken x = s.setReg x (BitVec.ofNat 8 k) := by
  simp [State.keyTaken, State.setReg, h]

/-- What an instruction that meets no fault writes beside pc. -/
def written (i : Instr) (s : State) : State :=
  match i with
  | .cls => s.show Framebuffer.clear
  | .ret => s.popped
  | .call _ => s.pushed s.pc
  | .ldImm x nn => s.setReg x nn
  | .addImm x nn => s.setReg x (s.reg x + nn)
  | .ldReg x y => s.setReg x (s.reg y)
  | .orReg x y => s.setReg x (s.reg x ||| s.reg y)
  | .andReg x y => s.setReg x (s.reg x &&& s.reg y)
  | .xorReg x y => s.setReg x (s.reg x ^^^ s.reg y)
  | .addReg x y => s.writeRF x (s.reg x + s.reg y) (carryFlag (s.reg x) (s.reg y))
  | .subReg x y => s.writeRF x (s.reg x - s.reg y) (noBorrowFlag (s.reg x) (s.reg y))
  | .shr x _ => s.writeRF x (s.reg x >>> 1) (shrFlag (s.reg x))
  | .subnReg x y => s.writeRF x (s.reg y - s.reg x) (noBorrowFlag (s.reg y) (s.reg x))
  | .shl x _ => s.writeRF x (s.reg x <<< 1) (shlFlag s.cfg.shlVfMode (s.reg x))
  | .ldI nnn => s.setI (zextAddr nnn)
  | .rnd x nn => s.drawRng.2.setReg x (s.drawRng.1 &&& nn)
  | .drw x y n => (s.show (s.draw x y n).fb).setReg vf (flagByte (s.draw x y n).collision)
  | .ldVxDt x => s.setReg x s.dt
  | .ldVxK x => s.keyTaken x
  | .ldDtVx x => s.setDT (s.reg x)
  | .ldStVx x => s.setST (s.reg x)
  | .addI x => s.setI (s.i + zextByte (s.reg x))
  | .ldF x => s.setI (s.glyph x)
  | .ldB x => s.setBytes s.base (bcdDigits (s.reg x))
  | .storeRegs x => s.setBytes s.base (s.regsList (x.toNat + 1))
  | .loadRegs x => s.loadFrom s.base (x.toNat + 1)
  | _ => s

/-- The state in which an instruction that meets no fault completes. -/
def completed (i : Instr) (s : State) : State := (written i s).jump (BitVec.ofNat 16 (nextPcOf i s))

/-! The fields no instruction writes -/

theorem written_pc (i : Instr) (s : State) : (written i s).pc = s.pc := by
  cases i with
  | _ => simp [written, State.pushed, State.popped, State.keyTaken]

theorem written_control (i : Instr) (s : State) : sameControl s (written i s) := by
  cases i with
  | _ => simp [written, State.pushed, State.popped, State.keyTaken, sameControl]

section

variable (s : State)

/-! The instructions that can fault beside the memory blocks, and the key wait: what each answers -/

theorem exec_ret_of_empty (h : s.sp.val = 0) : exec .ret s = .next (s.raise .stackUnderflow) := by
  simp only [exec, execRet, (s.pop_eq_none).2 h]

theorem exec_ret_of_used (k : Fin 16) (h : s.sp.val = k.val + 1) :
    exec .ret s = .next (s.popped.jump (s.stack[k] + 2#16)) := by
  have hsp : s.sp = ⟨k.val + 1, by omega⟩ := Fin.ext h
  have hpop : s.pop = some (s.stack[k], s.popped) :=
    (s.pop_eq_some _ _).2 ⟨k.val, by omega, hsp, rfl, by simp [State.popped, hsp]⟩
  simp only [exec, execRet, hpop]

theorem exec_call_of_full (nnn : Addr) (h : s.sp.val = 16) : exec (.call nnn) s = .next (s.raise .stackOverflow) := by
  simp only [exec, execCall, (s.push_eq_none s.pc).2 h]

theorem exec_call_of_free (nnn : Addr) (h : s.sp.val < 16) :
    exec (.call nnn) s = .next ((s.pushed s.pc).jump (zextAddr nnn)) := by
  have hpush : s.push s.pc = some (s.pushed s.pc) := (s.push_eq_some _ _).2 ⟨h, by simp [State.pushed, h]⟩
  simp only [exec, execCall, hpush]

theorem exec_skp_of_key (x : Nibble) (h : (s.reg x).toNat < 16) :
    exec (.skp x) s = .next (s.skipIf s.key[(s.reg x).toNat]) := by
  simp only [exec, execSkp, s.keyAt_of_lt _ h]

theorem exec_sknp_of_key (x : Nibble) (h : (s.reg x).toNat < 16) :
    exec (.sknp x) s = .next (s.skipIf (!s.key[(s.reg x).toNat])) := by
  simp only [exec, execSknp, s.keyAt_of_lt _ h]

theorem exec_skp_of_noKey (x : Nibble) (h : 15 < (s.reg x).toNat) :
    exec (.skp x) s = .next (s.raise (.keyOutOfRange (s.reg x))) := by
  simp only [exec, execSkp, (s.keyAt_eq_none _).2 h]

theorem exec_sknp_of_noKey (x : Nibble) (h : 15 < (s.reg x).toNat) :
    exec (.sknp x) s = .next (s.raise (.keyOutOfRange (s.reg x))) := by
  simp only [exec, execSknp, (s.keyAt_eq_none _).2 h]

theorem exec_ldVxK_of_none (x : Nibble) (h : s.lowestPressed = none) : exec (.ldVxK x) s = .next s := by
  simp only [exec, execLdVxK, h]

theorem exec_ldVxK_of_some (x : Nibble) (k : Nat) (h : s.lowestPressed = some k) :
    exec (.ldVxK x) s = .next (s.setReg x (BitVec.ofNat 8 k)).advance := by
  simp only [exec, execLdVxK, h]

theorem unmapped_eq_guard : s.unmapped = s.guard (unmappedFault s) s.advance := by
  unfold State.unmapped unmappedFault
  cases s.cfg.unmappedPolicy <;> rfl

/-! The pc of each class -/

theorem State.advance_eq_jump (t : State) (h : t.pc = s.pc) :
    t.advance = t.jump (BitVec.ofNat 16 (sequentialPc s)) := by
  have hpc : s.pc + 2#16 = BitVec.ofNat 16 (sequentialPc s) := BitVec.eq_of_toNat_eq (by simp [sequentialPc])
  rw [State.advance, h, hpc]

theorem State.skipIf_eq_jump (c : Bool) : s.skipIf c = s.jump (BitVec.ofNat 16 (skipPc s c)) := by
  cases c
  · exact s.advance_eq_jump s rfl
  · exact congrArg s.jump (BitVec.eq_of_toNat_eq (by simp [skipPc]))

theorem zextAddr_eq (nnn : Addr) : zextAddr nnn = BitVec.ofNat 16 nnn.toNat := (BitVec.ofNat_toNat 16 nnn).symm

theorem State.toNat_jumpTarget (nnn : Addr) : (s.jumpTarget nnn).toNat = nnn.toNat + (s.reg 0#4).toNat := by
  have haddr := nnn.isLt
  have hbyte := (s.reg 0#4).isLt
  simp only [State.jumpTarget, zextAddr, zextByte, BitVec.toNat_add, BitVec.toNat_setWidth]
  omega

/-- The return address of RET, as `nextPcOf` reads it. -/
theorem State.stack_getD (k : Fin 16) : s.stack.toList.getD k.val 0#16 = s.stack[k] := by
  simp [List.getD_eq_getElem?_getD]

/-- A key, as `nextPcOf` reads it. -/
theorem State.key_getD (k : Nat) (h : k < 16) : s.key.toList.getD k false = s.key[k] := by
  simp [List.getD_eq_getElem?_getD, h]

/-! What an instruction answers, from its fault, its writes and its pc -/

theorem exec_eq_of_fault (i : Instr) (r : FaultReason) (hfault : faultOf i s = some r)
    (hexec : exec i s = .next (s.raise r)) : exec i s = s.guard (faultOf i s) (completed i s) := by
  rw [hexec, hfault]
  rfl

theorem exec_eq_of_jump (i : Instr) (w : Word) (hfault : faultOf i s = none)
    (hexec : exec i s = .next ((written i s).jump w)) (hpc : w = BitVec.ofNat 16 (nextPcOf i s)) :
    exec i s = s.guard (faultOf i s) (completed i s) := by
  rw [hexec, hfault, hpc]
  rfl

theorem exec_eq_of_skip (i : Instr) (c : Bool) (hfault : faultOf i s = none) (hwritten : written i s = s)
    (hexec : exec i s = .next (s.skipIf c)) (hpc : skipPc s c = nextPcOf i s) :
    exec i s = s.guard (faultOf i s) (completed i s) :=
  exec_eq_of_jump s i _ hfault (by rw [hexec, s.skipIf_eq_jump, hwritten]) (congrArg _ hpc)

theorem exec_eq_of_advance (i : Instr) (hpc : nextPcOf i s = sequentialPc s)
    (hexec : exec i s = s.guard (faultOf i s) (written i s).advance) :
    exec i s = s.guard (faultOf i s) (completed i s) := by
  rw [hexec, completed, hpc, State.advance_eq_jump s _ (written_pc i s)]

theorem exec_ret_eq_guard : exec .ret s = s.guard (faultOf .ret s) (completed .ret s) := by
  by_cases h : s.sp.val = 0
  · exact exec_eq_of_fault s .ret _ (if_pos h) (exec_ret_of_empty s h)
  · have hk : s.sp.val = (⟨s.sp.val - 1, by omega⟩ : Fin 16).val + 1 := by dsimp only; omega
    refine exec_eq_of_jump s .ret _ (if_neg h) (exec_ret_of_used s _ hk) (BitVec.eq_of_toNat_eq ?_)
    rw [← s.stack_getD]
    simp [nextPcOf]

theorem exec_call_eq_guard (nnn : Addr) :
    exec (.call nnn) s = s.guard (faultOf (.call nnn) s) (completed (.call nnn) s) := by
  by_cases h : s.sp.val = 16
  · exact exec_eq_of_fault s (.call nnn) _ (if_pos h) (exec_call_of_full s nnn h)
  · exact exec_eq_of_jump s (.call nnn) _ (if_neg h) (exec_call_of_free s nnn (by omega)) (zextAddr_eq nnn)

theorem exec_skp_eq_guard (x : Nibble) : exec (.skp x) s = s.guard (faultOf (.skp x) s) (completed (.skp x) s) := by
  by_cases h : 15 < (s.reg x).toNat
  · exact exec_eq_of_fault s (.skp x) _ (if_pos h) (exec_skp_of_noKey s x h)
  · have hkey : (s.reg x).toNat < 16 := by omega
    refine exec_eq_of_skip s (.skp x) _ (if_neg h) rfl (exec_skp_of_key s x hkey) ?_
    rw [nextPcOf, s.key_getD _ hkey, Bool.decide_eq_true]

theorem exec_sknp_eq_guard (x : Nibble) : exec (.sknp x) s = s.guard (faultOf (.sknp x) s) (completed (.sknp x) s) := by
  by_cases h : 15 < (s.reg x).toNat
  · exact exec_eq_of_fault s (.sknp x) _ (if_pos h) (exec_sknp_of_noKey s x h)
  · have hkey : (s.reg x).toNat < 16 := by omega
    refine exec_eq_of_skip s (.sknp x) _ (if_neg h) rfl (exec_sknp_of_key s x hkey) ?_
    rw [nextPcOf, s.key_getD _ hkey, Bool.decide_eq_false]

theorem exec_ldVxK_eq_guard (x : Nibble) :
    exec (.ldVxK x) s = s.guard (faultOf (.ldVxK x) s) (completed (.ldVxK x) s) := by
  cases h : s.lowestPressed with
  | none =>
    have hpc : nextPcOf (.ldVxK x) s = s.pc.toNat := if_pos ((s.lowestPressed_eq_none).1 h)
    have hwritten : written (.ldVxK x) s = s := s.keyTaken_of_none x h
    refine exec_eq_of_jump s (.ldVxK x) s.pc rfl ?_ (by simp [hpc])
    rw [exec_ldVxK_of_none s x h, hwritten]
    rfl
  | some k =>
    have hpressed : ¬ ∀ j : Fin 16, s.key[j] = false := fun hnone => by
      rw [(s.lowestPressed_eq_none).2 hnone] at h
      cases h
    refine exec_eq_of_advance s (.ldVxK x) (if_neg hpressed) ?_
    have hwritten : written (.ldVxK x) s = s.setReg x (BitVec.ofNat 8 k) := s.keyTaken_of_some x k h
    rw [exec_ldVxK_of_some s x k h, hwritten]
    rfl

end

/-- What every instruction answers: the fault it meets, or its completion. -/
theorem exec_eq_guard (i : Instr) (s : State) : exec i s = s.guard (faultOf i s) (completed i s) := by
  cases i with
  | ret => exact exec_ret_eq_guard s
  | call nnn => exact exec_call_eq_guard s nnn
  | skp x => exact exec_skp_eq_guard s x
  | sknp x => exact exec_sknp_eq_guard s x
  | ldVxK x => exact exec_ldVxK_eq_guard s x
  | jp nnn => exact exec_eq_of_jump s (.jp nnn) _ rfl rfl (zextAddr_eq nnn)
  | jpV0 nnn =>
    refine exec_eq_of_jump s (.jpV0 nnn) _ rfl rfl ?_
    rw [nextPcOf, ← s.toNat_jumpTarget, BitVec.ofNat_toNat, BitVec.setWidth_eq]
  | seImm x nn => exact exec_eq_of_skip s (.seImm x nn) _ rfl rfl rfl rfl
  | sneImm x nn => exact exec_eq_of_skip s (.sneImm x nn) _ rfl rfl rfl (congrArg _ decide_not.symm)
  | seReg x y n => exact exec_eq_of_skip s (.seReg x y n) _ rfl rfl rfl rfl
  | sneReg x y n => exact exec_eq_of_skip s (.sneReg x y n) _ rfl rfl rfl (congrArg _ decide_not.symm)
  | unmapped89 _ _ _ | unmappedAB _ _ _ | unmappedCD _ _ _ | unmapped8F _ _ | unmappedE _ _ | unmappedF _ _ =>
    exact exec_eq_of_advance s _ rfl (unmapped_eq_guard s)
  | _ => exact exec_eq_of_advance s _ rfl rfl

/-- The two ways an instruction ends. -/
theorem exec_cases (i : Instr) (s t : State) (h : exec i s = .next t) :
    (faultOf i s = none ∧ t = completed i s) ∨ ∃ r, faultOf i s = some r ∧ t = s.raise r := by
  rw [exec_eq_guard, State.guard_eq] at h
  cases hfault : faultOf i s with
  | none => rw [hfault] at h; cases h; exact .inl ⟨rfl, rfl⟩
  | some r => rw [hfault] at h; cases h; exact .inr ⟨r, rfl, rfl⟩

theorem exec_of_noFault (i : Instr) (s : State) (h : faultOf i s = none) : exec i s = .next (completed i s) := by
  rw [exec_eq_guard, h]
  rfl

/-- Settles O10: an instruction that meets no fault completes, and its writes leave the record alone. -/
theorem instructionFaultConditions : Obligations.InstructionFaultConditions := by
  intro i s
  refine ⟨fun r hr => ?_, fun hnone => ⟨completed i s, exec_of_noFault i s hnone, ?_⟩⟩
  · rw [exec_eq_guard, hr]
    rfl
  · obtain ⟨-, -, -, hfault, -⟩ := written_control i s
    exact hfault

/-! The pc of a completion -/

theorem sequentialPc_lt (s : State) : sequentialPc s < 65536 := Nat.mod_lt _ (by decide)

theorem skipPc_lt (s : State) (c : Bool) : skipPc s c < 65536 := by
  cases c <;> exact Nat.mod_lt _ (by decide)

theorem nextPcOf_lt (i : Instr) (s : State) : nextPcOf i s < 65536 := by
  cases i with
  | ret => exact Nat.mod_lt _ (by decide)
  | jp nnn | call nnn => exact Nat.lt_trans nnn.isLt (by decide)
  | jpV0 nnn => rw [nextPcOf, ← s.toNat_jumpTarget]; exact (s.jumpTarget nnn).isLt
  | seImm _ _ | sneImm _ _ | seReg _ _ _ | sneReg _ _ _ | skp _ | sknp _ => exact skipPc_lt s _
  | ldVxK x =>
    rw [nextPcOf]
    split
    · exact s.pc.isLt
    · exact sequentialPc_lt s
  | _ => exact sequentialPc_lt s

theorem toNat_completed_pc (i : Instr) (s : State) : (completed i s).pc.toNat = nextPcOf i s := by
  rw [completed, State.jump_pc, BitVec.toNat_ofNat, Nat.mod_eq_of_lt (nextPcOf_lt i s)]

/-- Settles O11: the pc of a completion is the one of its class. -/
theorem pcAdvancesByClass : Obligations.PcAdvancesByClass := fun i s hnone =>
  ⟨completed i s, exec_of_noFault i s hnone, toNat_completed_pc i s⟩

/-! Which fields a completion writes -/

section

variable (i : Instr) (s : State)

theorem written_mem (h : ∀ x, i ≠ .ldB x ∧ i ≠ .storeRegs x) : (written i s).mem = s.mem := by
  cases i with
  | ldB x => exact absurd rfl (h x).1
  | storeRegs x => exact absurd rfl (h x).2
  | _ => simp [written, State.pushed, State.popped, State.keyTaken]

theorem written_i (h : ∀ x nnn, i ≠ .ldI nnn ∧ i ≠ .addI x ∧ i ≠ .ldF x) : (written i s).i = s.i := by
  cases i with
  | ldI nnn => exact absurd rfl (h 0#4 nnn).1
  | addI x => exact absurd rfl (h x 0#12).2.1
  | ldF x => exact absurd rfl (h x 0#12).2.2
  | _ => simp [written, State.pushed, State.popped, State.keyTaken]

theorem written_stack (h : ∀ nnn, i ≠ .call nnn) : (written i s).stack = s.stack := by
  cases i with
  | call nnn => exact absurd rfl (h nnn)
  | _ => simp [written, State.popped, State.keyTaken]

theorem written_sp (hcall : ∀ nnn, i ≠ .call nnn) (hret : i ≠ .ret) : (written i s).sp = s.sp := by
  cases i with
  | call nnn => exact absurd rfl (hcall nnn)
  | ret => exact absurd rfl hret
  | _ => simp [written, State.keyTaken]

theorem written_dt (h : ∀ x, i ≠ .ldDtVx x) : (written i s).dt = s.dt := by
  cases i with
  | ldDtVx x => exact absurd rfl (h x)
  | _ => simp [written, State.pushed, State.popped, State.keyTaken]

theorem written_st (h : ∀ x, i ≠ .ldStVx x) : (written i s).st = s.st := by
  cases i with
  | ldStVx x => exact absurd rfl (h x)
  | _ => simp [written, State.pushed, State.popped, State.keyTaken]

theorem written_display (hcls : i ≠ .cls) (hdrw : ∀ x y n, i ≠ .drw x y n) : sameDisplay s (written i s) := by
  cases i with
  | cls => exact absurd rfl hcls
  | drw x y n => exact absurd rfl (hdrw x y n)
  | _ => simp [written, State.pushed, State.popped, State.keyTaken, sameDisplay]

theorem written_redraw (h : s.redraw = true) : (written i s).redraw = true := by
  cases i with
  | _ => simp [written, State.pushed, State.popped, State.keyTaken, h]

theorem written_draws (h : ∀ x nn, i ≠ .rnd x nn) : (written i s).draws = s.draws := by
  cases i with
  | rnd x nn => exact absurd rfl (h x nn)
  | _ => simp [written, State.pushed, State.popped, State.keyTaken]

end

/-! The registers -/

theorem sameRegsBut_setReg (s : State) (x : Nibble) (b : Byte) : sameRegsBut [x] s (s.setReg x b) := fun r hr => by
  have hx : r ≠ x := by simpa using hr
  rw [State.reg_setReg, if_neg hx]

theorem sameRegsBut_writeRF (s : State) (x : Nibble) (b f : Byte) : sameRegsBut [x, vf] s (s.writeRF x b f) :=
  fun r hr => by
    obtain ⟨hx, hf⟩ : r ≠ x ∧ r ≠ vf := by simpa using hr
    rw [State.reg_writeRF]
    cases s.cfg.vfWriteOrder <;> simp only [if_neg hx, if_neg hf]

theorem sameRegsBut_loadFrom (s : State) (a : Nat) (x : Nibble) :
    sameRegsBut (destsOf (.loadRegs x)) s (s.loadFrom a (x.toNat + 1)) := fun r hr => by
  have hx : ¬ r.toNat < x.toNat + 1 := fun hlt => hr <| by
    refine List.mem_map.2 ⟨r.toNat, List.mem_range.2 hlt, ?_⟩
    rw [BitVec.ofNat_toNat, BitVec.setWidth_eq]
  rw [State.reg_loadFrom s a _ x.isLt, if_neg hx]

theorem sameRegsBut_keyTaken (s : State) (x : Nibble) : sameRegsBut [x] s (s.keyTaken x) := by
  cases h : s.lowestPressed with
  | none => rw [s.keyTaken_of_none x h]; exact fun r _ => rfl
  | some k => rw [s.keyTaken_of_some x k h]; exact sameRegsBut_setReg s x _

theorem sameRegsBut_written (i : Instr) (s : State) : sameRegsBut (destsOf i) s (written i s) := by
  cases i with
  | addReg _ _ | subReg _ _ | shr _ _ | subnReg _ _ | shl _ _ => exact sameRegsBut_writeRF s _ _ _
  | ldImm _ _ | addImm _ _ | ldReg _ _ | orReg _ _ | andReg _ _ | xorReg _ _ | ldVxDt _ =>
    exact sameRegsBut_setReg s _ _
  | rnd _ _ => exact sameRegsBut_setReg s.drawRng.2 _ _
  | drw x y n => exact sameRegsBut_setReg (s.show _) _ _
  | ldVxK x => exact sameRegsBut_keyTaken s x
  | loadRegs x => exact sameRegsBut_loadFrom s _ x
  | ldB x => exact fun r _ => State.setBytes_reg s _ _ r
  | storeRegs x => exact fun r _ => State.setBytes_reg s _ _ r
  | _ => exact fun r _ => rfl

/-- Settles O18: a fault writes no register, and a completion only its destinations. -/
theorem registersOutsideDestinationsKept : Obligations.RegistersOutsideDestinationsKept := by
  intro i s t h
  obtain ⟨-, rfl⟩ | ⟨r, -, rfl⟩ := exec_cases i s t h
  · exact sameRegsBut_written i s
  · exact fun r _ => rfl

theorem sameBytes_of_mem_eq {s t : State} (hmem : t.mem = s.mem) (hcfg : t.cfg = s.cfg) : sameBytes s t := fun c => by
  rw [State.byteAt, State.byteAt, hmem, hcfg]

/-- Settles O19: a fault writes nothing but its record; of a completion, each field by the lemma about it. -/
theorem onlyNamedInstructionsWrite : Obligations.OnlyNamedInstructionsWrite := by
  intro i s t h
  obtain ⟨-, rfl⟩ | ⟨r, -, rfl⟩ := exec_cases i s t h
  · obtain ⟨hkey, hopcode, hrun, -, hcfg⟩ := written_control i s
    exact ⟨fun hmem => sameBytes_of_mem_eq (written_mem i s hmem) hcfg, written_i i s, written_stack i s,
      written_sp i s, written_dt i s, written_st i s, written_display i s, written_redraw i s, written_draws i s, hkey, hrun, hopcode,
      hcfg⟩
  · exact ⟨fun _ _ => rfl, fun _ => rfl, fun _ => rfl, fun _ _ => rfl, fun _ => rfl, fun _ => rfl,
      fun _ _ => ⟨rfl, rfl⟩, id, fun _ => rfl, rfl, rfl, rfl, rfl⟩

end Sys2Proof.Machine
end

section
/-! SUPPORT. One step of the core, from what its instruction does (spec 40_fetch_dispatch.md R120 to R129,
60_exceptions.md R300). -/

namespace Sys2Proof.Machine

/-- The two bytes of a word, the first its high half (R121). -/
theorem toNat_wordOfBytes (hi lo : Byte) : (wordOfBytes hi lo).toNat = 256 * hi.toNat + lo.toNat := by
  rw [wordOfBytes, BitVec.toNat_append, ← Nat.shiftLeft_add_eq_or_of_lt lo.isLt, Nat.shiftLeft_eq]
  omega

section

variable (s : State)

theorem step_of_faulted (r : FaultRecord) (h : s.fault = some r) : step s = .fault (.stopped r) := by
  simp only [step, h]

theorem step_of_noFetch (hfault : s.fault = none) (hpc : 0xFFE < s.pc.toNat) :
    step s = .next (s.raise (.pcOutOfRange s.pc)) := by
  simp only [step, hfault, (s.fetch_eq_none).2 hpc]

theorem step_of_fetch (w : Word) (hfault : s.fault = none) (hfetch : s.fetch = some w) :
    step s = s.commit (exec (decode w) (s.setOpcode w)) := by
  simp only [step, hfault, hfetch]

theorem completed_fault (i : Instr) : (completed i s).fault = s.fault := by
  obtain ⟨-, -, -, hfault, -⟩ := written_control i s
  exact hfault

/-- The end of the step that fetched `w`: the completion, or the state before the step with the fault recorded. -/
def State.afterFetch (w : Word) : State :=
  (faultOf (decode w) (s.setOpcode w)).elim (completed (decode w) (s.setOpcode w)) fun e =>
    { s with fault := some ⟨e, s.pc, w⟩ }

theorem step_eq_afterFetch (w : Word) (hfault : s.fault = none) (hfetch : s.fetch = some w) :
    step s = .next (s.afterFetch w) := by
  rw [step_of_fetch s w hfault hfetch, exec_eq_guard, State.afterFetch]
  cases faultOf (decode w) (s.setOpcode w) with
  | none =>
    have hkept : (completed (decode w) (s.setOpcode w)).fault = none := (completed_fault _ _).trans hfault
    simp only [State.guard, State.commit, hkept, Option.elim]
  | some e => rfl

/-- Everything a step can answer with a next state. -/
theorem step_cases (t : State) (h : step s = .next t) :
    s.fault = none ∧
      ((0xFFE < s.pc.toNat ∧ t = s.raise (.pcOutOfRange s.pc)) ∨
        ∃ w, s.fetch = some w ∧
          ((faultOf (decode w) (s.setOpcode w) = none ∧ t = completed (decode w) (s.setOpcode w)) ∨
            ∃ e, faultOf (decode w) (s.setOpcode w) = some e ∧ t = { s with fault := some ⟨e, s.pc, w⟩ })) := by
  obtain ⟨hfault, -⟩ := (step_eq_next s t).1 h
  refine ⟨hfault, ?_⟩
  cases hfetch : s.fetch with
  | none =>
    have hpc := (s.fetch_eq_none).1 hfetch
    rw [step_of_noFetch s hfault hpc] at h
    cases h
    exact .inl ⟨hpc, rfl⟩
  | some w =>
    rw [step_eq_afterFetch s w hfault hfetch, State.afterFetch] at h
    refine .inr ⟨w, rfl, ?_⟩
    cases hf : faultOf (decode w) (s.setOpcode w) with
    | none => rw [hf] at h; cases h; exact .inl ⟨rfl, rfl⟩
    | some e => rw [hf] at h; cases h; exact .inr ⟨e, rfl, rfl⟩

/-- A step that records a fault: at fetch, or the one its instruction meets. -/
theorem step_fault_cases (t : State) (r : FaultRecord) (h : step s = .next t) (hr : t.fault = some r) :
    s.fault = none ∧ t = { s with fault := some r } ∧
      ((0xFFE < s.pc.toNat ∧ r = ⟨.pcOutOfRange s.pc, s.pc, s.opcode⟩) ∨
        ∃ w e, s.fetch = some w ∧ faultOf (decode w) (s.setOpcode w) = some e ∧ r = ⟨e, s.pc, w⟩) := by
  obtain ⟨hfault, ⟨hpc, rfl⟩ | ⟨w, hw, ⟨-, rfl⟩ | ⟨e, he, rfl⟩⟩⟩ := step_cases s t h
  · cases hr
    exact ⟨hfault, rfl, .inl ⟨hpc, rfl⟩⟩
  · rw [completed_fault, State.setOpcode_fault, hfault] at hr
    cases hr
  · cases hr
    exact ⟨hfault, rfl, .inr ⟨w, e, hw, he, rfl⟩⟩

end

/-- Settles O5: the bytes at pc are the word fetched, and the end of the step keeps the record of a fault. -/
theorem stepRunsTheDecodedInstruction : Obligations.StepRunsTheDecodedInstruction := by
  intro s i w hfault hpc hdecode hw
  have hword : w = wordOfBytes (s.byteAt s.pc.toNat) (s.byteAt (s.pc.toNat + 1)) :=
    BitVec.eq_of_toNat_eq (by rw [hw, toNat_wordOfBytes])
  have hi : decode w = i := by
    rw [hword]
    cases hdecode
    rfl
  have hstep : step s = s.commit (exec i { s with opcode := w }) := by
    rw [step_of_fetch s w hfault ((s.fetch_eq_some w).2 ⟨hpc, hword⟩), hi]
    rfl
  rw [hstep]
  refine ⟨fun t ht hnone => ?_, fun t r ht hr => ?_, fun f hf => ?_, fun r hr => ?_⟩
  · simp only [ht, State.commit, hnone]
  · simp only [ht, State.commit, hr]
  · rw [hf]; rfl
  · rw [hr]; rfl

theorem ite_some_ne {c : Prop} [Decidable c] {r r' : FaultReason} (h : r ≠ r') :
    (if c then some r else none) ≠ some r' := by
  split <;> simp [h]

/-- The fault of code 1 is no instruction's. -/
theorem faultOf_ne_pcOutOfRange (i : Instr) (s : State) (p : Word) : faultOf i s ≠ some (.pcOutOfRange p) := by
  cases i with
  | ret | call _ | drw _ _ _ | skp _ | sknp _ | ldB _ | storeRegs _ | loadRegs _ | unmapped89 _ _ _ | unmappedAB _ _ _
  | unmappedCD _ _ _ | unmapped8F _ _ | unmappedE _ _ | unmappedF _ _ => exact ite_some_ne (by nofun)
  | _ => exact nofun

/-- Settles O6: a record of PcOutOfRange can only be that of the fetch. -/
theorem pcFaultExactlyAtFetch : Obligations.PcFaultExactlyAtFetch := by
  intro s hfault
  refine ⟨step_of_noFetch s hfault, fun hpc t r p h hr hreason => ?_⟩
  obtain ⟨-, -, ⟨hhigh, -⟩ | ⟨w, e, -, he, rfl⟩⟩ := step_fault_cases s t r h hr
  · omega
  · exact faultOf_ne_pcOutOfRange _ _ _ (he.trans (congrArg some hreason))

theorem loadRom_eq_some (s t : State) (rom : List Byte) :
    s.loadRom rom = some t ↔ rom.length ≤ 4096 - 0x200 ∧ t = s.setBytes 0x200 rom := by
  unfold State.loadRom
  split
  · rename_i h; exact ⟨fun ht => ⟨h, (Option.some.inj ht).symm⟩, fun ht => congrArg some ht.2.symm⟩
  · rename_i h; exact ⟨nofun, fun ht => absurd ht.1 h⟩

/-- Settles O7: a step looks at the record first; of the host's operations only the two resets write it. -/
theorem faultedCoreIsStopped : Obligations.FaultedCoreIsStopped := by
  intro s r hr
  refine ⟨step_of_faulted s r hr, fun op t h => ?_⟩
  cases op with
  | coldStart | warmReset => cases h; simp [State.warmReset, State.coldStart, State.reset]
  | load rom => obtain ⟨-, rfl⟩ := (loadRom_eq_some s t rom).1 h; simp [hr]
  | tick | input _ | render | stop => cases h; simp [hr]

/-- Settles O8: a fetch either fails, which is a fault recorded, or gives a word, which decodes. -/
theorem unfaultedCoreAlwaysSteps : Obligations.UnfaultedCoreAlwaysSteps := by
  intro s hfault
  cases hfetch : s.fetch with
  | none => exact ⟨_, step_of_noFetch s hfault ((s.fetch_eq_none).1 hfetch)⟩
  | some w => exact ⟨_, step_eq_afterFetch s w hfault hfetch⟩

/-- Settles O9: the record of a fetch fault holds the old opcode, that of an instruction the fetched word. -/
theorem faultsArePrecise : Obligations.FaultsArePrecise := by
  intro s t r h hr
  obtain ⟨hfault, ht, ⟨hpc, rfl⟩ | ⟨w, e, hw, -, rfl⟩⟩ := step_fault_cases s t r h hr
  · exact ⟨hfault, ht, rfl, fun hlow => by omega, fun _ => rfl⟩
  · obtain ⟨hpc, rfl⟩ := (s.fetch_eq_some w).1 hw
    exact ⟨hfault, ht, rfl, fun _ => toNat_wordOfBytes _ _, fun hhigh => by omega⟩

/-! The run flag -/

/-- The state with another run flag. -/
def State.withRun (s : State) (b : Bool) : State := { s with run := b }

section

variable (s : State) (b : Bool)

theorem setBytes_withRun (xs : List Byte) (a : Nat) :
    (s.withRun b).setBytes a xs = (s.setBytes a xs).withRun b := by
  induction xs generalizing s a with
  | nil => rfl
  | cons x xs ih =>
    have hbyte : (s.withRun b).setByte a x = (s.setByte a x).withRun b := by
      unfold State.setByte
      split <;> rfl
    rw [State.setBytes, hbyte, ih]
    rfl

theorem loadFrom_withRun (a n : Nat) : (s.withRun b).loadFrom a n = (s.loadFrom a n).withRun b := by
  induction n with
  | zero => rfl
  | succ k ih => rw [State.loadFrom, ih]; rfl

theorem writeRF_withRun (x : Nibble) (r f : Byte) : (s.withRun b).writeRF x r f = (s.writeRF x r f).withRun b := by
  unfold State.writeRF State.withRun
  cases s.cfg.vfWriteOrder <;> rfl

theorem lowestPressed_withRun : (s.withRun b).lowestPressed = s.lowestPressed := by
  cases h : s.lowestPressed with
  | none => exact (State.lowestPressed_eq_none _).2 ((State.lowestPressed_eq_none s).1 h)
  | some k => exact (State.lowestPressed_eq_some _ k).2 ((State.lowestPressed_eq_some s k).1 h)

theorem faultOf_withRun (i : Instr) : faultOf i (s.withRun b) = faultOf i s := by
  cases i <;> rfl

theorem nextPcOf_withRun (i : Instr) : nextPcOf i (s.withRun b) = nextPcOf i s := by
  cases i <;> rfl

theorem written_withRun (i : Instr) : written i (s.withRun b) = (written i s).withRun b := by
  cases i with
  | ldB x => exact setBytes_withRun s b _ _
  | storeRegs x => exact setBytes_withRun s b _ _
  | loadRegs x => exact loadFrom_withRun s b _ _
  | addReg _ _ | subReg _ _ | shr _ _ | subnReg _ _ | shl _ _ => exact writeRF_withRun s b _ _ _
  | ldVxK x => simp only [written, State.keyTaken, lowestPressed_withRun]; rfl
  | _ => rfl

theorem completed_withRun (i : Instr) : completed i (s.withRun b) = (completed i s).withRun b := by
  rw [completed, written_withRun, nextPcOf_withRun]
  rfl

theorem afterFetch_withRun (w : Word) : (s.withRun b).afterFetch w = (s.afterFetch w).withRun b := by
  have hop : (s.withRun b).setOpcode w = (s.setOpcode w).withRun b := rfl
  rw [State.afterFetch, State.afterFetch, hop, faultOf_withRun, completed_withRun]
  cases faultOf (decode w) (s.setOpcode w) <;> rfl

end

theorem step_run (s t : State) (h : step s = .next t) : t.run = s.run := by
  obtain ⟨-, ⟨-, rfl⟩ | ⟨w, -, ⟨-, rfl⟩ | ⟨e, -, rfl⟩⟩⟩ := step_cases s t h
  · rfl
  · obtain ⟨-, -, hrun, -⟩ := written_control (decode w) (s.setOpcode w)
    exact hrun
  · rfl

/-- Settles O12: fetch, the fault met and every write are the same under another run flag. -/
theorem stepIgnoresRunFlag : Obligations.StepIgnoresRunFlag := by
  intro s b
  refine ⟨fun t h => ⟨step_run s t h, ?_⟩, fun f h => ?_⟩
  · obtain ⟨hfault, -⟩ := step_cases s t h
    cases hfetch : s.fetch with
    | none =>
      have hpc := (s.fetch_eq_none).1 hfetch
      rw [step_of_noFetch s hfault hpc] at h
      cases h
      exact step_of_noFetch (s.withRun b) hfault hpc
    | some w =>
      rw [step_eq_afterFetch s w hfault hfetch] at h
      cases h
      exact (step_eq_afterFetch (s.withRun b) w hfault hfetch).trans (congrArg _ (afterFetch_withRun s b w))
  · change step (s.withRun b) = .fault f
    cases hfault : s.fault with
    | none =>
      obtain ⟨t, ht⟩ := unfaultedCoreAlwaysSteps s hfault
      rw [ht] at h
      cases h
    | some r =>
      rw [step_of_faulted s r hfault] at h
      exact (step_of_faulted (s.withRun b) r hfault).trans h

/-! Two steps that change little -/

/-- The frame of every instruction that only sets pc. -/
theorem changesOnly_jump (s : State) (w : Word) : changesOnly [] s (s.jump w) := by
  simp [changesOnly, sameRegsBut, sameBytes, sameStack, sameTimers, sameDisplay, sameControl]

theorem step_of_exec (s t : State) (w : Word) (hfault : s.fault = none) (hfetch : s.fetch = some w)
    (hexec : exec (decode w) (s.setOpcode w) = .next t) (ht : t.fault = none) : step s = .next t := by
  rw [step_of_fetch s w hfault hfetch, hexec]
  simp only [State.commit, ht]

/-- Settles O20: the arm of SYS is the advance; two zero bytes are the word of SYS 0. -/
theorem sysOnlyAdvances : Obligations.SysOnlyAdvances := by
  refine ⟨fun nnn s => ⟨s.advance, rfl, s.toNat_advance_pc, changesOnly_jump s _⟩, fun s hfault hpc hhi hlo => ?_⟩
  have hfetch : s.fetch = some 0x0000#16 := (s.fetch_eq_some _).2 ⟨hpc, by rw [hhi, hlo]; rfl⟩
  exact step_of_exec s _ _ hfault hfetch rfl hfault

/-- Settles O28: the jump's target is pc, and the step writes nothing that a fetch reads. -/
theorem finishedProgramStaysFinished : Obligations.FinishedProgramStaysFinished := by
  rintro s ⟨hsafe, nnn, hfetch, hself⟩
  have hdecode : decode (encode (.jp nnn)) = .jp nnn := encodedInstructionDecodes (.jp nnn) rfl
  have htarget : zextAddr nnn = s.pc := by rw [zextAddr_eq, hself, BitVec.ofNat_toNat, BitVec.setWidth_eq]
  have hexec : exec (decode (encode (.jp nnn))) (s.setOpcode (encode (.jp nnn))) =
      .next ((s.setOpcode (encode (.jp nnn))).jump s.pc) := by
    rw [hdecode, ← htarget]
    rfl
  exact ⟨encode (.jp nnn), hfetch, step_of_exec s _ _ hsafe hfetch hexec hsafe, hsafe, nnn, hfetch, hself⟩

end Sys2Proof.Machine
end

section
/-! SUPPORT. Drawing a sprite (spec 44_display.md R221): what it does to every pixel and to VF, in the terms of
`State.spriteCovers`, and that a second draw undoes the first. -/

namespace Sys2Proof.Machine

theorem spriteBit_eq (b : Byte) (c : Nat) : spriteBit b c = b.getLsbD (7 - c) := by
  rw [spriteBit, BitVec.and_one_eq_setWidth_ofBool_getLsbD, BitVec.getLsbD_ushiftRight, Nat.add_zero]
  cases b.getLsbD (7 - c) <;> decide

section

variable (s : State)

theorem State.length_bytesAt (a n : Nat) : (s.bytesAt a n).length = n := by
  rw [State.bytesAt, List.length_map, List.length_range]

theorem State.getElem_bytesAt (a n r : Nat) (h : r < (s.bytesAt a n).length) :
    (s.bytesAt a n)[r] = s.byteAt (a + r) := by
  simp [State.bytesAt]

theorem covers_iff_spriteCovers (x y n : Nibble) (py : Fin 32) (px : Fin 64) :
    covers (s.reg x).toNat (s.reg y).toNat (s.bytesAt s.base n.toNat) py px ↔ s.spriteCovers x y n py px := by
  simp only [covers, State.spriteCovers, spriteBit_eq, State.getElem_bytesAt, State.length_bytesAt, Fin.ext_iff, wrapX,
    wrapY, State.base]
  constructor
  · rintro ⟨r, c, hr, hc, h⟩; exact ⟨r, hr, c, hc, h⟩
  · rintro ⟨r, hr, c, hc, h⟩; exact ⟨r, c, hr, hc, h⟩

theorem State.length_sprite_le (n : Nibble) : (s.bytesAt s.base n.toNat).length ≤ 32 := by
  have hn := n.isLt
  rw [State.length_bytesAt]
  omega

/-- A draw flips a covered pixel. -/
theorem State.pixel_draw_of_covers (x y n : Nibble) (py : Fin 32) (px : Fin 64) (h : s.spriteCovers x y n py px) :
    Framebuffer.pixel (s.draw x y n).fb py px = s.pixel py px ^^^ 1#8 :=
  ((Drawing.drawRows_spec _ _ ⟨s.fb, false⟩ _ (s.length_sprite_le n)).1 py px).1 ((covers_iff_spriteCovers s ..).2 h)

/-- A draw keeps a pixel that is not covered. -/
theorem State.pixel_draw_of_not_covers (x y n : Nibble) (py : Fin 32) (px : Fin 64)
    (h : ¬ s.spriteCovers x y n py px) : Framebuffer.pixel (s.draw x y n).fb py px = s.pixel py px :=
  ((Drawing.drawRows_spec _ _ ⟨s.fb, false⟩ _ (s.length_sprite_le n)).1 py px).2
    fun hc => h ((covers_iff_spriteCovers s ..).1 hc)

/-- A draw collides exactly where a covered pixel was set. -/
theorem State.draw_collision (x y n : Nibble) :
    (s.draw x y n).collision = true ↔ ∃ py px, s.spriteCovers x y n py px ∧ s.pixel py px = 1#8 := by
  have hspec := (Drawing.drawRows_spec (s.reg x).toNat _ ⟨s.fb, false⟩ (s.reg y).toNat (s.length_sprite_le n)).2
  simp only [Bool.false_eq_true, false_or, covers_iff_spriteCovers] at hspec
  exact hspec

/-! The draw instruction -/

/-- The state after a draw. -/
def State.drawn (x y n : Nibble) : State :=
  ((s.show (s.draw x y n).fb).setReg vf (flagByte (s.draw x y n).collision)).advance

theorem exec_drw (x y n : Nibble) : exec (.drw x y n) s = s.guard (memFault s.i.toNat n.toNat) (s.drawn x y n) := rfl

theorem State.reg_vf_drawn (x y n : Nibble) : (s.drawn x y n).reg vf = flagByte (s.draw x y n).collision := by
  rw [State.drawn, State.advance_reg, State.reg_setReg, if_pos rfl]

theorem flagByte_eq_one (b : Bool) : flagByte b = 1#8 ↔ b = true := by cases b <;> decide

theorem flagByte_eq_zero (b : Bool) : flagByte b = 0#8 ↔ ¬ b = true := by cases b <;> decide

theorem sameRegsBut_drawn (x y n : Nibble) : sameRegsBut [vf] s (s.drawn x y n) :=
  sameRegsBut_setReg (s.show _) vf _

theorem State.toNat_drawn_pc (x y n : Nibble) : (s.drawn x y n).pc.toNat = (s.pc.toNat + 2) % 65536 :=
  State.toNat_advance_pc _

end

/-- Settles O39: with the rows in memory the check answers nothing, and the draw does the rest. -/
theorem drawXorsTheSprite : Obligations.DrawXorsTheSprite := by
  intro x y n s hrows
  have hfault : memFault s.i.toNat n.toNat = none := (memFault_eq_none _ _).2 hrows
  have hexec : exec (.drw x y n) s = .next (s.drawn x y n) := by rw [exec_drw, hfault]; rfl
  have hset : (∃ py px, s.spriteCovers x y n py px ∧ s.pixel py px = 1#8) → (s.drawn x y n).reg vf = 1#8 := fun h => by
    rw [State.reg_vf_drawn, flagByte_eq_one]
    exact (s.draw_collision x y n).2 h
  have hunset : (¬ ∃ py px, s.spriteCovers x y n py px ∧ s.pixel py px = 1#8) → (s.drawn x y n).reg vf = 0#8 :=
    fun h => by
      rw [State.reg_vf_drawn, flagByte_eq_zero]
      exact fun hc => h ((s.draw_collision x y n).1 hc)
  exact ⟨s.drawn x y n, hexec, s.pixel_draw_of_covers x y n, s.pixel_draw_of_not_covers x y n, hset, hunset, rfl,
    s.toNat_drawn_pc x y n, sameRegsBut_drawn s x y n, rfl, fun _ => rfl, ⟨rfl, rfl⟩, ⟨rfl, rfl⟩,
    ⟨rfl, rfl, rfl, rfl, rfl⟩, rfl⟩

/-! Drawing twice -/

theorem Framebuffer.eq_of_pixel_eq {fb fb' : Framebuffer}
    (h : ∀ y x, Framebuffer.pixel fb y x = Framebuffer.pixel fb' y x) : fb = fb' :=
  Vector.ext fun y hy => Vector.ext fun x hx => h ⟨y, hy⟩ ⟨x, hx⟩

theorem eq_drawn_of_noFault (x y n : Nibble) (s t : State) (h : exec (.drw x y n) s = .next t)
    (hfault : t.fault = none) : t = s.drawn x y n := by
  rw [exec_drw, State.guard_eq] at h
  cases hcheck : memFault s.i.toNat n.toNat with
  | none => rw [hcheck] at h; cases h; rfl
  | some r => rw [hcheck] at h; cases h; cases hfault

theorem xor_one_eq_one (b : Byte) : b ^^^ 1#8 = 1#8 ↔ b = 0#8 := by
  constructor
  · intro h
    calc
      b = b ^^^ 1#8 ^^^ 1#8 := by rw [BitVec.xor_assoc, BitVec.xor_self, BitVec.xor_zero]
      _ = 0#8 := by rw [h, BitVec.xor_self]
  · rintro rfl
    rfl

theorem spriteCovers_congr {s t : State} {x y x' y' : Nibble} (n : Nibble) (hi : t.i = s.i) (hbytes : sameBytes s t)
    (hx : t.reg x' = s.reg x) (hy : t.reg y' = s.reg y) (py : Fin 32) (px : Fin 64) :
    t.spriteCovers x' y' n py px ↔ s.spriteCovers x y n py px := by
  simp only [State.spriteCovers, hi, hbytes _, hx, hy]

section

variable {s t : State} {x y x' y' n : Nibble}
  (hcovers : ∀ py px, t.spriteCovers x' y' n py px ↔ s.spriteCovers x y n py px) (hfb : t.fb = (s.draw x y n).fb)

include hfb

theorem pixel_between_draws (py : Fin 32) (px : Fin 64) (hc : s.spriteCovers x y n py px) :
    t.pixel py px = s.pixel py px ^^^ 1#8 := by
  rw [State.pixel, hfb, s.pixel_draw_of_covers x y n py px hc]

include hcovers

/-- A covered pixel is flipped twice. -/
theorem pixel_second_draw (py : Fin 32) (px : Fin 64) :
    Framebuffer.pixel (t.draw x' y' n).fb py px = s.pixel py px := by
  by_cases hc : s.spriteCovers x y n py px
  · rw [t.pixel_draw_of_covers x' y' n py px ((hcovers py px).2 hc), pixel_between_draws hfb py px hc,
      BitVec.xor_assoc, BitVec.xor_self, BitVec.xor_zero]
  · rw [t.pixel_draw_of_not_covers x' y' n py px fun h => hc ((hcovers py px).1 h), State.pixel, hfb,
      s.pixel_draw_of_not_covers x y n py px hc]

/-- A covered pixel that is set before the second draw was unset before the first. -/
theorem second_draw_collision :
    (t.draw x' y' n).collision = true ↔ ∃ py px, s.spriteCovers x y n py px ∧ s.pixel py px = 0#8 := by
  rw [State.draw_collision]
  refine exists_congr fun py => exists_congr fun px => ?_
  rw [hcovers]
  exact and_congr_right fun hc => by rw [pixel_between_draws hfb py px hc, xor_one_eq_one]

end

/-- Settles O40: the second draw covers the pixels the first has flipped. -/
theorem drawTwiceRestoresTheScreen : Obligations.DrawTwiceRestoresTheScreen := by
  intro x y x' y' n s s' t t' hfirst hfault hfb hi hbytes hx hy hsecond hfault'
  obtain rfl := eq_drawn_of_noFault x y n s s' hfirst hfault
  obtain rfl := eq_drawn_of_noFault x' y' n t t' hsecond hfault'
  have hcovers := spriteCovers_congr n hi hbytes hx hy
  refine ⟨Framebuffer.eq_of_pixel_eq (pixel_second_draw hcovers hfb), ?_, ?_⟩ <;> rw [State.reg_vf_drawn]
  · rw [flagByte_eq_one, second_draw_collision hcovers hfb]
  · rw [flagByte_eq_zero, flagByte_eq_one]
    exact (em _).symm

end Sys2Proof.Machine
end

section
/-! SUPPORT. The invariant of the machine: reset has it, every step and every host operation keeps it (spec 10_state.md
R24, R25, R28, 60_exceptions.md R300, R312). Also that the canonical form of memory is one list a content. -/

namespace Sys2Proof.Machine

/-! What a completion makes of each clause -/

section

variable (i : Instr) (s : State)

theorem written_mem_wf (h : Memory.wf s.cfg.font s.mem = true) : Memory.wf s.cfg.font (written i s).mem = true := by
  cases i with
  | ldB x => exact State.wf_setBytes _ s _ h
  | storeRegs x => exact State.wf_setBytes _ s _ h
  | _ => rw [written_mem]; exacts [h, by simp]

theorem draw_pixels (x y n : Nibble) (h : ∀ py px, s.pixel py px = 0#8 ∨ s.pixel py px = 1#8) (py : Fin 32)
    (px : Fin 64) :
    Framebuffer.pixel (s.draw x y n).fb py px = 0#8 ∨ Framebuffer.pixel (s.draw x y n).fb py px = 1#8 := by
  by_cases hc : s.spriteCovers x y n py px
  · rw [s.pixel_draw_of_covers x y n py px hc]
    rcases h py px with h | h <;> simp [h]
  · rw [s.pixel_draw_of_not_covers x y n py px hc]
    exact h py px

theorem written_fb (hcls : i ≠ .cls) (hdrw : ∀ x y n, i ≠ .drw x y n) : (written i s).fb = s.fb :=
  (written_display i s hcls hdrw).1

theorem written_pixels (h : ∀ py px, s.pixel py px = 0#8 ∨ s.pixel py px = 1#8) (py : Fin 32) (px : Fin 64) :
    (written i s).pixel py px = 0#8 ∨ (written i s).pixel py px = 1#8 := by
  cases i with
  | cls => exact .inl (Framebuffer.pixel_clear py px)
  | drw x y n => exact draw_pixels s x y n h py px
  | _ => rw [State.pixel, written_fb]; exacts [h py px, by simp, by simp]

theorem sequentialPc_le (hpc : s.pc.toNat ≤ 0xFFE) : sequentialPc s ≤ 0x10FE := by
  unfold sequentialPc
  omega

theorem skipPc_le (c : Bool) (hpc : s.pc.toNat ≤ 0xFFE) : skipPc s c ≤ 0x10FE := by
  unfold skipPc
  split <;> omega

/-- The highest pc is the highest sum of BNNN (R24). -/
theorem nextPcOf_le (hpc : s.pc.toNat ≤ 0xFFE) (hstack : ∀ k : Fin 16, s.stack[k].toNat ≤ 0xFFE) :
    nextPcOf i s ≤ 0x10FE := by
  cases i with
  | ret =>
    have hentry := hstack ⟨s.sp.val - 1, by omega⟩
    rw [← s.stack_getD] at hentry
    dsimp only [nextPcOf] at hentry ⊢
    omega
  | jp nnn | call nnn => exact Nat.le_of_lt (Nat.lt_trans nnn.isLt (by decide))
  | jpV0 nnn =>
    have haddr := nnn.isLt
    have hbyte := (s.reg 0x0#4).isLt
    dsimp only [nextPcOf]
    omega
  | seImm _ _ | sneImm _ _ | seReg _ _ _ | sneReg _ _ _ | skp _ | sknp _ => exact skipPc_le s _ hpc
  | ldVxK x =>
    rw [nextPcOf]
    split
    · omega
    · exact sequentialPc_le s hpc
  | _ => exact sequentialPc_le s hpc

/-- What a push with a free entry makes of each entry. -/
theorem getElem_pushed_stack (w : Word) (k : Fin 16) (h : s.sp.val < 16) :
    (s.pushed w).stack[k] = if k.val = s.sp.val then w else s.stack[k] := by
  simp only [State.pushed, dif_pos h, Fin.getElem_fin, Vector.getElem_set, eq_comm]

theorem pushed_stack_le (hpc : s.pc.toNat ≤ 0xFFE) (h : ∀ k : Fin 16, s.stack[k].toNat ≤ 0xFFE) (k : Fin 16) :
    (s.pushed s.pc).stack[k].toNat ≤ 0xFFE := by
  by_cases hfree : s.sp.val < 16
  · rw [getElem_pushed_stack s _ k hfree]
    split
    · exact hpc
    · exact h k
  · have hkept : (s.pushed s.pc).stack = s.stack := dif_neg hfree
    rw [hkept]
    exact h k

theorem written_stack_le (hpc : s.pc.toNat ≤ 0xFFE) (h : ∀ k : Fin 16, s.stack[k].toNat ≤ 0xFFE) (k : Fin 16) :
    (written i s).stack[k].toNat ≤ 0xFFE := by
  cases i with
  | call nnn => exact pushed_stack_le s hpc h k
  | _ => rw [written_stack]; exacts [h k, by simp]

end

/-- A fault record that names the pc is all a faulting step adds. -/
theorem State.Inv.withFault {s : State} (h : s.Inv) (e : FaultReason) (w : Word) :
    ({ s with fault := some ⟨e, s.pc, w⟩ } : State).Inv :=
  ⟨h.mem, h.pixels, h.pc, h.stack, by rintro r ⟨⟩; rfl⟩

theorem State.Inv.completed {s : State} (h : s.Inv) (i : Instr) (hsafe : s.fault = none) (hpc : s.pc.toNat ≤ 0xFFE) :
    (completed i s).Inv := by
  obtain ⟨-, -, -, hrecord, hcfg⟩ := written_control i s
  refine ⟨?_, written_pixels i s h.pixels, ?_, written_stack_le i s hpc h.stack, fun r hr => ?_⟩
  · change Memory.wf (written i s).cfg.font (written i s).mem = true
    rw [hcfg]
    exact written_mem_wf i s h.mem
  · rw [toNat_completed_pc]
    exact nextPcOf_le i s hpc h.stack
  · rw [completed_fault, hsafe] at hr
    cases hr

/-- Settles O13: a fault adds a record with its pc, a completion keeps each clause by the lemma about it. -/
theorem stepKeepsMachineInvariant : Obligations.StepKeepsMachineInvariant := by
  intro s t h hstep
  obtain ⟨hsafe, ⟨-, rfl⟩ | ⟨w, hw, ⟨-, rfl⟩ | ⟨e, -, rfl⟩⟩⟩ := step_cases s t hstep
  · exact h.withFault _ _
  · obtain ⟨hpc, -⟩ := (s.fetch_eq_some w).1 hw
    have hop : (s.setOpcode w).Inv := ⟨h.mem, h.pixels, h.pc, h.stack, h.fault⟩
    exact hop.completed _ hsafe hpc
  · exact h.withFault _ _

/-! The host's operations -/

theorem coldStart_inv (s : State) : s.coldStart.Inv := by
  refine ⟨rfl, fun y x => .inl ?_, (by decide : 0x200 ≤ 0x10FE), fun k => ?_, nofun⟩
  · simp [State.pixel, Framebuffer.pixel, State.coldStart, State.reset, resetPixel]
  · simp [State.coldStart, State.reset, resetStackEntry]

/-- Settles O14: reset is the cold start of itself. -/
theorem resetMeetsMachineInvariant : Obligations.ResetMeetsMachineInvariant := coldStart_inv State.reset

theorem warmReset_inv {s : State} (h : s.Inv) : s.warmReset.Inv := by
  obtain ⟨-, hpixels, hpc, hstack, hfault⟩ := coldStart_inv s
  exact ⟨Memory.wfFrom_filter _ _ h.mem, hpixels, hpc, hstack, hfault⟩

theorem setBytes_inv {s : State} (h : s.Inv) (a : Nat) (xs : List Byte) : (s.setBytes a xs).Inv := by
  obtain ⟨hmem, hpixels, hpc, hstack, hfault⟩ := h
  refine ⟨?_, ?_, ?_, ?_, ?_⟩ <;> simp only [State.setBytes_cfg, State.setBytes_pixel, State.setBytes_pc,
    State.setBytes_stack, State.setBytes_fault]
  exacts [State.wf_setBytes xs s a hmem, hpixels, hpc, hstack, hfault]

/-- Settles O15: the resets give every clause anew, a load writes bytes of memory, the others write
none of its fields. -/
theorem hostOperationsKeepMachineInvariant : Obligations.HostOperationsKeepMachineInvariant := by
  intro op s t h hop
  cases op with
  | coldStart => cases hop; exact coldStart_inv s
  | warmReset => cases hop; exact warmReset_inv h
  | load rom => obtain ⟨-, rfl⟩ := (loadRom_eq_some s t rom).1 hop; exact setBytes_inv h _ rom
  | tick | input _ | render | stop => cases hop; exact ⟨h.mem, h.pixels, h.pc, h.stack, h.fault⟩

/-- Settles O16: the invariant holds at reset and every event keeps it. -/
theorem everyInterleavingKeepsMachineInvariant : Obligations.EveryInterleavingKeepsMachineInvariant := by
  intro c es s h
  have hstart : ({ State.reset with cfg := c } : State).Inv := coldStart_inv { State.reset with cfg := c }
  exact runEvents_induct State.Inv stepKeepsMachineInvariant hostOperationsKeepMachineInvariant es _ s hstart h

/-! The canonical form -/

section

variable (font : Font)

theorem Memory.wfFrom_cons {lo b : Nat} {y : Byte} {m : Memory}
    (h : Memory.wfFrom font lo ((b, y) :: m) = true) :
    lo ≤ b ∧ b ≤ memTop ∧ y ≠ Memory.unlisted font b ∧ Memory.wfFrom font (b + 1) m = true := by
  simpa [Memory.wfFrom, and_assoc] using h

theorem Memory.read_below (m : Memory) (lo a : Nat) (h : Memory.wfFrom font lo m = true) (ha : a < lo) :
    Memory.read font m a = Memory.unlisted font a := by
  induction m generalizing lo with
  | nil => rfl
  | cons cell m ih =>
    obtain ⟨b, y⟩ := cell
    obtain ⟨hlo, -, -, hm⟩ := Memory.wfFrom_cons font h
    rw [Memory.read, if_neg (by omega), ih (b + 1) hm (by omega)]

/-- A list with no cell up to `b` does not read as one that lists `b` first. -/
theorem Memory.read_ne_of_first_lt {lo b : Nat} {y : Byte} {m m' : Memory}
    (h : Memory.wfFrom font lo ((b, y) :: m) = true) (h' : Memory.wfFrom font (b + 1) m' = true) :
    Memory.read font ((b, y) :: m) b ≠ Memory.read font m' b := by
  obtain ⟨-, -, hy, -⟩ := Memory.wfFrom_cons font h
  rw [Memory.read, if_pos rfl, Memory.read_below font m' (b + 1) b h' (by omega)]
  exact hy

/-- A canonical list has the form from any address up to its first cell. -/
theorem Memory.wfFrom_raise {lo b b' : Nat} {y' : Byte} {m' : Memory}
    (h : Memory.wfFrom font lo ((b', y') :: m') = true) (hlt : b < b') :
    Memory.wfFrom font (b + 1) ((b', y') :: m') = true := by
  obtain ⟨-, hb', hy', hm'⟩ := Memory.wfFrom_cons font h
  simp [Memory.wfFrom, Nat.succ_le_of_lt hlt, hb', hy', hm']

/-- Two canonical lists that read the same have the same first cell: the lower of two first cells would read as listed
in one and as reset contents in the other. -/
theorem Memory.eq_of_read_eq (m m' : Memory) (lo : Nat) (h : Memory.wfFrom font lo m = true)
    (h' : Memory.wfFrom font lo m' = true) (hread : ∀ a, a ≤ 0xFFF → Memory.read font m a = Memory.read font m' a) :
    m = m' := by
  induction m generalizing lo m' with
  | nil =>
    cases m' with
    | nil => rfl
    | cons cell' m' =>
      obtain ⟨b', y'⟩ := cell'
      obtain ⟨-, hb', -, -⟩ := Memory.wfFrom_cons font h'
      exact absurd (hread b' hb').symm (Memory.read_ne_of_first_lt font h' rfl)
  | cons cell m ih =>
    obtain ⟨b, y⟩ := cell
    obtain ⟨-, hb, -, hm⟩ := Memory.wfFrom_cons font h
    cases m' with
    | nil => exact absurd (hread b hb) (Memory.read_ne_of_first_lt font h rfl)
    | cons cell' m' =>
      obtain ⟨b', y'⟩ := cell'
      obtain ⟨-, hb', -, hm'⟩ := Memory.wfFrom_cons font h'
      rcases Nat.lt_trichotomy b b' with hlt | rfl | hlt
      · exact absurd (hread b hb) (Memory.read_ne_of_first_lt font h (Memory.wfFrom_raise font h' hlt))
      · have hy : y = y' := by simpa [Memory.read] using hread b hb
        have hrest : ∀ a, a ≤ 0xFFF → Memory.read font m a = Memory.read font m' a := fun a ha => by
          by_cases hab : a = b
          · rw [Memory.read_below font m (b + 1) a hm (by omega), Memory.read_below font m' (b + 1) a hm' (by omega)]
          · simpa [Memory.read, hab] using hread a ha
        rw [hy, ih m' (b + 1) hm hm' hrest]
      · exact absurd (hread b' hb').symm (Memory.read_ne_of_first_lt font h' (Memory.wfFrom_raise font h hlt))

end

/-- Settles O17: the canonical form is the one from address 0 on. -/
theorem canonicalMemoriesWithEqualReadsAreEqual : Obligations.CanonicalMemoriesWithEqualReadsAreEqual :=
  fun font m m' h h' hread => Memory.eq_of_read_eq font m m' 0 h h' hread

end Sys2Proof.Machine
end

section
/-! SUPPORT. Unmapped words, control transfer, skips, keys and timers (spec 40_fetch_dispatch.md R127,
41_control_flow.md R140 to R147, 45_keypad.md R240 to R242, 46_timers.md R260 to R262). -/

namespace Sys2Proof.Machine

/-- Settles O21: the arm of every unmapped row is `State.unmapped`, which looks at the policy alone. -/
theorem unmappedWordsFollowThePolicy : Obligations.UnmappedWordsFollowThePolicy := by
  intro x y lo kk s i hi
  have hexec : exec i s = s.unmapped := by
    simp only [List.mem_cons, List.not_mem_nil, or_false] at hi
    rcases hi with rfl | rfl | rfl | rfl | rfl | rfl <;> rfl
  have hunmapped := unmapped_eq_guard s
  refine ⟨fun hnop => ⟨s.advance, ?_, s.toNat_advance_pc, changesOnly_jump s _⟩, fun hfault => ?_⟩
  · rw [hexec, hunmapped, unmappedFault, hnop]
    rfl
  · rw [hexec, hunmapped, unmappedFault, hfault]
    rfl

theorem toNat_zextAddr (nnn : Addr) : (zextAddr nnn).toNat = nnn.toNat := by
  rw [zextAddr_eq, BitVec.toNat_ofNat, Nat.mod_eq_of_lt (Nat.lt_trans nnn.isLt (by decide))]

/-- Settles O22: both arms are a jump. -/
theorem jumpsSetPc : Obligations.JumpsSetPc := by
  intro nnn s
  exact ⟨⟨s.jump (zextAddr nnn), rfl, toNat_zextAddr nnn, changesOnly_jump s _⟩,
    ⟨s.jump (s.jumpTarget nnn), rfl, s.toNat_jumpTarget nnn, changesOnly_jump s _⟩⟩

/-! Calls and returns -/

/-- Everything but the stack and pc is as before. -/
def sameButStack (s t : State) : Prop :=
  sameRegsBut [] s t ∧ t.i = s.i ∧ sameBytes s t ∧ sameTimers s t ∧ sameDisplay s t ∧ sameControl s t ∧
    t.draws = s.draws

theorem sameButStack_pushed_jump (s : State) (w a : Word) : sameButStack s ((s.pushed w).jump a) :=
  ⟨fun _ _ => rfl, rfl, fun _ => rfl, ⟨rfl, rfl⟩, ⟨rfl, rfl⟩, ⟨rfl, rfl, rfl, rfl, rfl⟩, rfl⟩

theorem sameButStack_popped_jump (s : State) (a : Word) : sameButStack s (s.popped.jump a) :=
  ⟨fun _ _ => rfl, rfl, fun _ => rfl, ⟨rfl, rfl⟩, ⟨rfl, rfl⟩, ⟨rfl, rfl, rfl, rfl, rfl⟩, rfl⟩

theorem pushed_sp (s : State) (w : Word) (h : s.sp.val < 16) : (s.pushed w).sp.val = s.sp.val + 1 := by
  simp only [State.pushed, dif_pos h]

/-- Settles O23: with a free entry the push goes there. -/
theorem callPushesItsAddress : Obligations.CallPushesItsAddress := by
  intro nnn s h
  exact ⟨_, exec_call_of_free s nnn h, toNat_zextAddr nnn, pushed_sp s s.pc h, fun k => getElem_pushed_stack s s.pc k h,
    sameButStack_pushed_jump s s.pc _⟩

/-- Settles O24: the pop gives the newest entry where there is one. -/
theorem retPopsAndAddsTwo : Obligations.RetPopsAndAddsTwo := by
  refine ⟨exec_ret_of_empty, fun s k h => ?_⟩
  have hpc : (s.popped.jump (s.stack[k] + 2#16)).pc.toNat = (s.stack[k].toNat + 2) % 65536 := BitVec.toNat_add _ _
  have hsp : s.popped.sp.val = k.val := by simp [State.popped, h]
  exact ⟨_, exec_ret_of_used s k h, hpc, hsp, rfl, sameButStack_popped_jump s _⟩

/-- Settles O25: a push on a full stack answers nothing. -/
theorem callBeyondSixteenFaults : Obligations.CallBeyondSixteenFaults := fun nnn s h => exec_call_of_full s nnn h

/-- Settles O26: the entry RET pops is the one CALL has pushed. -/
theorem callThenRetReturns : Obligations.CallThenRetReturns := by
  intro nnn s h
  obtain ⟨k, hk⟩ : ∃ k : Fin 16, k.val = s.sp.val := ⟨⟨s.sp.val, h⟩, rfl⟩
  have hentry : (s.pushed s.pc).stack[k] = s.pc := (getElem_pushed_stack s s.pc k h).trans (if_pos hk)
  have hused : (s.pushed s.pc).sp.val = k.val + 1 := by rw [pushed_sp s s.pc h, hk]
  have hret := exec_ret_of_used ((s.pushed s.pc).jump (zextAddr nnn)) k hused
  have hsp : (s.pushed s.pc).popped.sp = s.sp := by simp [State.popped, pushed_sp s s.pc h]
  refine ⟨_, _, exec_call_of_free s nnn h, hret, ?_, hsp, fun _ _ => rfl, rfl, fun _ => rfl⟩
  exact congrArg (· + 2#16) hentry

/-! Skips -/

theorem changesOnly_skipIf (s : State) (c : Bool) : changesOnly [] s (s.skipIf c) := by
  rw [s.skipIf_eq_jump]
  exact changesOnly_jump s _

theorem toNat_skipIf_pc (s : State) (c : Bool) :
    (s.skipIf c).pc.toNat = (s.pc.toNat + if c = true then 4 else 2) % 65536 := by
  cases c <;> exact BitVec.toNat_add _ _

theorem toNat_skipIf_not_pc (s : State) (c : Bool) :
    (s.skipIf (!c)).pc.toNat = (s.pc.toNat + if c = true then 2 else 4) % 65536 := by
  cases c <;> exact BitVec.toNat_add _ _

/-- Settles O27: each arm is a skip on its condition. -/
theorem skipsFollowTheirCondition : Obligations.SkipsFollowTheirCondition := by
  intro x y n nn s
  have hequal : ∀ a b : Byte,
      (s.skipIf (a == b)).pc.toNat = (s.pc.toNat + if a.toNat = b.toNat then 4 else 2) % 65536 := fun a b => by
    simp only [toNat_skipIf_pc, beq_iff_eq, BitVec.toNat_inj]
  have hdiffer : ∀ a b : Byte,
      (s.skipIf (a != b)).pc.toNat = (s.pc.toNat + if a.toNat = b.toNat then 2 else 4) % 65536 := fun a b => by
    simp only [bne, toNat_skipIf_not_pc, beq_iff_eq, BitVec.toNat_inj]
  exact ⟨⟨_, rfl, changesOnly_skipIf s _, hequal _ _⟩, ⟨_, rfl, changesOnly_skipIf s _, hdiffer _ _⟩,
    ⟨_, rfl, changesOnly_skipIf s _, hequal _ _⟩, ⟨_, rfl, changesOnly_skipIf s _, hdiffer _ _⟩⟩

/-! Keys -/

/-- Settles O41: with the index of a key the arms are skips on that key. -/
theorem keySkipsFollowTheKey : Obligations.KeySkipsFollowTheKey := by
  intro x s k hk
  have hlt : (s.reg x).toNat < 16 := by rw [hk]; exact k.isLt
  have hkey : s.key[(s.reg x).toNat] = s.key[k] := by simp only [hk, Fin.getElem_fin]
  refine ⟨⟨_, exec_skp_of_key s x hlt, changesOnly_skipIf s _, ?_⟩,
    ⟨_, exec_sknp_of_key s x hlt, changesOnly_skipIf s _, ?_⟩⟩
  · rw [toNat_skipIf_pc, hkey]
  · rw [toNat_skipIf_not_pc, hkey]

/-- Settles O42: no key has an index above 15. -/
theorem keyIndexAboveFifteenFaults : Obligations.KeyIndexAboveFifteenFaults := fun x s h =>
  ⟨exec_skp_of_noKey s x h, exec_sknp_of_noKey s x h⟩

theorem State.reg_setReg_advance (s : State) (x : Nibble) (b : Byte) : (s.setReg x b).advance.reg x = b := by
  rw [State.advance_reg, State.reg_setReg, if_pos rfl]

/-- Settles O43: the search finds no key or the lowest. -/
theorem keyWaitTakesTheLowestKey : Obligations.KeyWaitTakesTheLowestKey := by
  intro x s
  refine ⟨fun hnone => exec_ldVxK_of_none s x ((s.lowestPressed_eq_none).2 hnone), fun k hk hlower => ?_⟩
  have hfound : s.lowestPressed = some k.val := (s.lowestPressed_eq_some k.val).2 ⟨by simpa using hk, fun j hj => by
    have hj16 : j < 16 := by omega
    simpa [hj16] using hlower ⟨j, hj16⟩ hj⟩
  have hbyte : ((s.setReg x (BitVec.ofNat 8 k.val)).advance.reg x).toNat = k.val := by
    rw [State.reg_setReg_advance, BitVec.toNat_ofNat, Nat.mod_eq_of_lt (by omega)]
  exact ⟨_, exec_ldVxK_of_some s x k.val hfound, hbyte, State.toNat_advance_pc _, changesOnly_setReg_advance s x _⟩

/-! Timers -/

/-- Settles O44: each arm is one write and the advance. -/
theorem timerMoves : Obligations.TimerMoves := by
  intro x s
  refine ⟨⟨_, rfl, s.reg_setReg_advance x s.dt, State.toNat_advance_pc _, changesOnly_setReg_advance s x s.dt⟩,
    ⟨(s.setDT (s.reg x)).advance, rfl, rfl, rfl, State.toNat_advance_pc _, ?_⟩,
    ⟨(s.setST (s.reg x)).advance, rfl, rfl, rfl, State.toNat_advance_pc _, ?_⟩⟩ <;>
  exact ⟨fun _ _ => rfl, rfl, fun _ => rfl, ⟨rfl, rfl⟩, ⟨rfl, rfl⟩, ⟨rfl, rfl, rfl, rfl, rfl⟩, rfl⟩

end Sys2Proof.Machine
end

section
/-! SUPPORT. Immediates, the index register, arithmetic and logic (spec 42_register_immediate.md, 43_alu.md R190 to
R199, 44_display.md R222, 47_memory_block.md R270). -/

namespace Sys2Proof.Machine

/-- Settles O30: the arm writes Vx alone. -/
theorem addImmediateWithoutFlag : Obligations.AddImmediateWithoutFlag := by
  intro x nn s
  refine ⟨(s.setReg x (s.reg x + nn)).advance, rfl, ?_, State.toNat_advance_pc _, changesOnly_setReg_advance s x _⟩
  rw [State.reg_setReg_advance, BitVec.toNat_add]

/-! The index register -/

/-- Everything but I and pc is as before, and pc advances. -/
theorem setI_advance_frame (s : State) (w : Word) :
    (s.setI w).advance.pc.toNat = (s.pc.toNat + 2) % 65536 ∧ sameRegsBut [] s (s.setI w).advance ∧
      sameBytes s (s.setI w).advance ∧ sameStack s (s.setI w).advance ∧ sameTimers s (s.setI w).advance ∧
      sameDisplay s (s.setI w).advance ∧ sameControl s (s.setI w).advance ∧ (s.setI w).advance.draws = s.draws :=
  ⟨State.toNat_advance_pc _, fun _ _ => rfl, fun _ => rfl, ⟨rfl, rfl⟩, ⟨rfl, rfl⟩, ⟨rfl, rfl⟩,
    ⟨rfl, rfl, rfl, rfl, rfl⟩, rfl⟩

theorem toNat_zextByte (b : Byte) : (zextByte b).toNat = b.toNat := by
  rw [zextByte, BitVec.toNat_setWidth, Nat.mod_eq_of_lt (Nat.lt_trans b.isLt (by decide))]

theorem toNat_and_low_nibble (b : Byte) : (b &&& 0x0F#8).toNat = b.toNat % 16 := by
  rw [BitVec.toNat_and]
  exact Nat.and_two_pow_sub_one_eq_mod b.toNat 4

theorem toNat_glyph_of_digit (d : Byte) : (zextByte d * 5#16).toNat = d.toNat * 5 := by
  have hd := d.isLt
  rw [BitVec.toNat_mul, toNat_zextByte]
  exact Nat.mod_eq_of_lt (show d.toNat * 5 < 65536 by omega)

theorem State.toNat_glyph (s : State) (x : Nibble) :
    (s.glyph x).toNat =
      (if s.cfg.fontDigitMode = .masked then (s.reg x).toNat % 16 else (s.reg x).toNat) * 5 := by
  unfold State.glyph
  cases s.cfg.fontDigitMode with
  | unmasked => exact toNat_glyph_of_digit _
  | masked => rw [if_pos rfl, ← toNat_and_low_nibble]; exact toNat_glyph_of_digit _

/-- Settles O31: each arm writes I alone. -/
theorem indexRegisterWrites : Obligations.IndexRegisterWrites := by
  intro nnn x s i v hi
  have hsum : (s.i + zextByte (s.reg x)).toNat = (s.i.toNat + (s.reg x).toNat) % 65536 := by
    rw [BitVec.toNat_add, toNat_zextByte]
  simp only [List.mem_cons, List.not_mem_nil, or_false, Prod.mk.injEq] at hi
  obtain ⟨rfl, rfl⟩ | ⟨rfl, rfl⟩ | ⟨rfl, rfl⟩ := hi
  · exact ⟨_, rfl, toNat_zextAddr nnn, setI_advance_frame s _⟩
  · exact ⟨_, rfl, hsum, setI_advance_frame s _⟩
  · exact ⟨_, rfl, s.toNat_glyph x, setI_advance_frame s _⟩

/-! Bits -/

/-- Settles O32: nothing is used of the oracle's byte. -/
theorem randomByteIsMasked : Obligations.RandomByteIsMasked := by
  intro x nn s
  have hreg : (s.drawRng.2.setReg x (s.drawRng.1 &&& nn)).advance.reg x = Config.rngByte s.draws &&& nn :=
    State.reg_setReg_advance _ x _
  refine ⟨(s.drawRng.2.setReg x (s.drawRng.1 &&& nn)).advance, rfl, fun k _ => ?_, ?_, rfl, State.toNat_advance_pc _,
    sameRegsBut_setReg s.drawRng.2 x _, rfl, fun _ => rfl, ⟨rfl, rfl⟩, ⟨rfl, rfl⟩, ⟨rfl, rfl⟩,
    ⟨rfl, rfl, rfl, rfl, rfl⟩⟩
  · rw [hreg, BitVec.getLsbD_and]
  · rw [hreg, BitVec.toNat_and]
    exact Nat.and_le_right

theorem setReg_advance_bits (s : State) (x : Nibble) (b : Byte) (f : Nat → Bool) (hb : ∀ k, b.getLsbD k = f k) :
    (∀ k < 8, ((s.setReg x b).advance.reg x).getLsbD k = f k) ∧
      (s.setReg x b).advance.pc.toNat = (s.pc.toNat + 2) % 65536 ∧ changesOnly [x] s (s.setReg x b).advance :=
  ⟨fun k _ => by rw [State.reg_setReg_advance, hb], State.toNat_advance_pc _, changesOnly_setReg_advance s x b⟩

/-- Settles O33: each arm writes Vx alone, with the operation on its bits. -/
theorem moveAndLogicWithoutFlag : Obligations.MoveAndLogicWithoutFlag := by
  intro x y s i f hi
  simp only [List.mem_cons, List.not_mem_nil, or_false, Prod.mk.injEq] at hi
  obtain ⟨rfl, rfl⟩ | ⟨rfl, rfl⟩ | ⟨rfl, rfl⟩ | ⟨rfl, rfl⟩ := hi
  · exact ⟨_, rfl, setReg_advance_bits s x _ _ fun _ => rfl⟩
  · exact ⟨_, rfl, setReg_advance_bits s x _ _ fun _ => BitVec.getLsbD_or⟩
  · exact ⟨_, rfl, setReg_advance_bits s x _ _ fun _ => BitVec.getLsbD_and⟩
  · exact ⟨_, rfl, setReg_advance_bits s x _ _ fun _ => BitVec.getLsbD_xor⟩

/-! Results and flags as numbers -/

section

variable (a b : Byte)

theorem toNat_sub_byte : (a - b).toNat = (a.toNat + 256 - b.toNat) % 256 := by
  have hb := b.isLt
  rw [BitVec.toNat_sub]
  omega

theorem toNat_shiftRight_one : (a >>> 1).toNat = a.toNat / 2 := by
  rw [BitVec.toNat_ushiftRight, Nat.shiftRight_one]

theorem toNat_shiftLeft_one : (a <<< 1).toNat = a.toNat * 2 % 256 := by
  rw [BitVec.toNat_shiftLeft, Nat.shiftLeft_eq, pow_one]

theorem toNat_flagByte (p : Prop) [Decidable p] : (flagByte (decide p)).toNat = if p then 1 else 0 := by
  by_cases hp : p <;> simp [flagByte, hp]

theorem toNat_shrFlag : (shrFlag a).toNat = a.toNat % 2 := by
  rw [shrFlag, BitVec.toNat_and]
  exact Nat.and_one_is_mod a.toNat

theorem toNat_shlFlag (mode : ShlVfMode) : (shlFlag mode a).toNat = if mode = .msb then a.toNat / 128 else 0 := by
  have ha := a.isLt
  cases mode with
  | msb =>
    have hmod : ((a >>> 7) &&& 1#8).toNat = a.toNat / 128 % 2 := by
      rw [BitVec.toNat_and, BitVec.toNat_ushiftRight, Nat.shiftRight_eq_div_pow]
      exact Nat.and_one_is_mod _
    rw [shlFlag, hmod, if_pos rfl]
    omega
  | referenceZero => rfl

end

/-! The write of a result and a flag -/

theorem changesOnly_writeRF_advance (s : State) (x : Nibble) (b f : Byte) :
    changesOnly [x, vf] s (s.writeRF x b f).advance := by
  refine ⟨sameRegsBut_writeRF s x b f, ?_⟩
  simp [sameBytes, sameStack, sameTimers, sameDisplay, sameControl]

/-- Beside another destination VF holds the flag, whatever the write order. -/
theorem writeRF_advance_of_ne (s : State) (x : Nibble) (b f : Byte) {result flag : Nat} (hx : x ≠ vf)
    (hresult : b.toNat = result) (hflag : f.toNat = flag) :
    ((s.writeRF x b f).advance.reg x).toNat = result ∧ ((s.writeRF x b f).advance.reg vf).toNat = flag ∧
      (s.writeRF x b f).advance.pc.toNat = (s.pc.toNat + 2) % 65536 ∧
      changesOnly [x, vf] s (s.writeRF x b f).advance := by
  refine ⟨?_, ?_, ?_, changesOnly_writeRF_advance s x b f⟩
  · rw [State.advance_reg, State.reg_writeRF]
    cases s.cfg.vfWriteOrder <;> simp [hx, hresult]
  · rw [State.advance_reg, State.reg_writeRF]
    cases s.cfg.vfWriteOrder <;> simp [hx.symm, hflag]
  · rw [State.toNat_advance_pc, State.writeRF_pc]

/-- With VF as destination it holds the last of the two writes (R190). -/
theorem writeRF_advance_vf (s : State) (b f : Byte) {result flag : Nat} (hresult : b.toNat = result)
    (hflag : f.toNat = flag) :
    ((s.writeRF vf b f).advance.reg vf).toNat = (if s.cfg.vfWriteOrder = .flagThenResult then result else flag) ∧
      (s.writeRF vf b f).advance.pc.toNat = (s.pc.toNat + 2) % 65536 ∧
      changesOnly [vf] s (s.writeRF vf b f).advance := by
  obtain ⟨hregs, hrest⟩ := changesOnly_writeRF_advance s vf b f
  refine ⟨?_, ?_, fun r hr => hregs r (by simpa using hr), hrest⟩
  · rw [State.advance_reg, State.reg_writeRF]
    cases s.cfg.vfWriteOrder <;> simp [hresult, hflag]
  · rw [State.toNat_advance_pc, State.writeRF_pc]

/-- Settles O34: the arm writes the sum and the carry of the 9-bit sum. -/
theorem addSetsCarry : Obligations.AddSetsCarry := fun x _ s hx =>
  ⟨_, rfl, writeRF_advance_of_ne s x _ _ hx (BitVec.toNat_add _ _) (toNat_flagByte _)⟩

/-- Settles O35: the arms write the difference and the no-borrow flag of their operands, in either order of these. -/
theorem subtractSetsNoBorrow : Obligations.SubtractSetsNoBorrow := fun x _ s hx =>
  ⟨⟨_, rfl, writeRF_advance_of_ne s x _ _ hx (toNat_sub_byte _ _) (toNat_flagByte _)⟩,
    ⟨_, rfl, writeRF_advance_of_ne s x _ _ hx (toNat_sub_byte _ _) (toNat_flagByte _)⟩⟩

/-- Settles O36: neither arm gets the Y field, and the flag is the bit moved out. -/
theorem shiftsSetTheBitShiftedOut : Obligations.ShiftsSetTheBitShiftedOut := fun x _ s hx =>
  ⟨⟨_, rfl, writeRF_advance_of_ne s x _ _ hx (toNat_shiftRight_one _) (toNat_shrFlag _)⟩,
    ⟨_, rfl, writeRF_advance_of_ne s x _ _ hx (toNat_shiftLeft_one _) (toNat_shlFlag _ _)⟩⟩

/-- Settles O37: both values are computed from the state before the write, so only the order of the writes matters. -/
theorem flagDestinationFollowsWriteOrder : Obligations.FlagDestinationFollowsWriteOrder := by
  intro y s i result flag hi
  simp only [List.mem_cons, List.not_mem_nil, or_false, Prod.mk.injEq] at hi
  obtain ⟨rfl, rfl, rfl⟩ | ⟨rfl, rfl, rfl⟩ | ⟨rfl, rfl, rfl⟩ | ⟨rfl, rfl, rfl⟩ | ⟨rfl, rfl, rfl⟩ := hi
  · exact ⟨_, rfl, writeRF_advance_vf s _ _ (BitVec.toNat_add _ _) (toNat_flagByte _)⟩
  · exact ⟨_, rfl, writeRF_advance_vf s _ _ (toNat_sub_byte _ _) (toNat_flagByte _)⟩
  · exact ⟨_, rfl, writeRF_advance_vf s _ _ (toNat_shiftRight_one _) (toNat_shrFlag _)⟩
  · exact ⟨_, rfl, writeRF_advance_vf s _ _ (toNat_sub_byte _ _) (toNat_flagByte _)⟩
  · exact ⟨_, rfl, writeRF_advance_vf s _ _ (toNat_shiftLeft_one _) (toNat_shlFlag _ _)⟩

end Sys2Proof.Machine
end

section
/-! SUPPORT. Blocks past memory, a store over the next word, and the host's operations (spec 20_memory.md R62, R63, R73,
60_exceptions.md R310 to R319, 70_reset_and_hazards.md R340 to R346). -/

namespace Sys2Proof.Machine

/-- A block with an address above 0xFFF is not empty, and its last address is such a one. -/
theorem exec_eq_of_past (i : Instr) (s t : State) (size : Nat) (hexec : exec i s = s.guard (memFault s.i.toNat size) t)
    (h : ∃ a, s.i.toNat ≤ a ∧ a < s.i.toNat + size ∧ 0xFFF < a) :
    exec i s = .next { s with fault := some ⟨.memOutOfRange (max s.i.toNat 0x1000), s.pc, s.opcode⟩ } := by
  obtain ⟨a, hlow, hhigh, hpast⟩ := h
  obtain ⟨k, rfl⟩ : ∃ k, size = k + 1 := ⟨size - 1, by omega⟩
  rw [hexec, s.guard_memFault_of_past k t (by omega)]

/-- Settles O48: the check of each of the four arms finds the larger of I and 0x1000, the lowest bad address. -/
theorem blockPastMemoryFaults : Obligations.BlockPastMemoryFaults := by
  intro x y n s i size hi hpast
  have hfault : exec i s = .next { s with fault := some ⟨.memOutOfRange (max s.i.toNat 0x1000), s.pc, s.opcode⟩ } := by
    simp only [List.mem_cons, List.not_mem_nil, or_false, Prod.mk.injEq] at hi
    obtain ⟨rfl, rfl⟩ | ⟨rfl, rfl⟩ | ⟨rfl, rfl⟩ | ⟨rfl, rfl⟩ := hi
    · exact exec_eq_of_past _ s _ _ (exec_drw s x y n) hpast
    · exact exec_eq_of_past _ s _ _ (exec_ldB s x) hpast
    · exact exec_eq_of_past _ s _ _ (exec_storeRegs s x) hpast
    · exact exec_eq_of_past _ s _ _ (exec_loadRegs s x) hpast
  obtain ⟨a, hlow, hhigh, ha⟩ := hpast
  exact ⟨max s.i.toNat 0x1000, by omega, fun b hb hbad => by omega, hfault⟩

/-- Settles O49: FX55 completes, and the bytes it has stored at pc + 2 and pc + 3 are the ones the next fetch reads. -/
theorem storedWordIsFetchedNext : Obligations.StoredWordIsFetchedNext := by
  intro x k j s hin hj hjx hpc
  obtain ⟨-, hinside⟩ := registersAreStored x s
  obtain ⟨t, hexec, hstored, -, htpc, -⟩ := hinside hin
  have hpcs : t.pc.toNat = s.i.toNat + k.toNat := by omega
  have hpcj : t.pc.toNat + 1 = s.i.toNat + j.toNat := by omega
  refine ⟨t, _, hexec, (t.fetch_eq_some _).2 ⟨by omega, rfl⟩, ?_⟩
  rw [toNat_wordOfBytes, hpcj, hpcs, hstored k (by omega), hstored j hjx]

/-! Timers -/

theorem toNat_tickDown (b : Byte) : (tickDown b).toNat = b.toNat - 1 := by
  unfold tickDown
  split
  · rename_i hzero; rw [hzero]; rfl
  · rename_i hpos; bv_omega

theorem toNat_iterate_tickTimers (s : State) (n : Nat) :
    (State.tickTimers^[n] s).dt.toNat = s.dt.toNat - n ∧ (State.tickTimers^[n] s).st.toNat = s.st.toNat - n := by
  induction n with
  | zero => exact ⟨rfl, rfl⟩
  | succ n ih =>
    obtain ⟨hdt, hst⟩ := ih
    rw [Function.iterate_succ_apply', State.tickTimers_dt, State.tickTimers_st, toNat_tickDown, toNat_tickDown, hdt,
      hst]
    exact ⟨by omega, by omega⟩

/-- Settles O50: a tick writes the two timers, each counted down by one; n ticks by induction. -/
theorem ticksCountDownToZero : Obligations.TicksCountDownToZero := fun s =>
  ⟨⟨toNat_tickDown s.dt, toNat_tickDown s.st, rfl⟩, toNat_iterate_tickTimers s⟩

/-! Resets -/

/-- Settles O51: memory lists nothing, so it reads as its reset contents; every other field is a constant. -/
theorem coldStartValues : Obligations.ColdStartValues := by
  refine ⟨rfl, ?_⟩
  rintro s _ rfl
  refine ⟨fun d => dif_pos d.isLt, fun a ha => dif_neg (by omega), fun r => ?_, rfl, rfl, rfl, fun k => ?_, rfl, rfl,
    fun py px => ?_, rfl, fun k => ?_, rfl, rfl, rfl⟩
  · simp [State.reg, State.coldStart, State.reset, resetReg]
  · simp [State.coldStart, State.reset, resetStackEntry]
  · simp [State.pixel, Framebuffer.pixel, State.coldStart, State.reset, resetPixel]
  · simp [State.coldStart, State.reset]

/-- Dropping the cells below an address leaves what is read from there up, and the reset contents below. -/
theorem Memory.read_filter_from (font : Font) (m : Memory) (lo a : Nat) :
    Memory.read font (m.filter fun cell => decide (lo ≤ cell.1)) a =
      if lo ≤ a then Memory.read font m a else Memory.unlisted font a := by
  induction m with
  | nil => simp [Memory.read]
  | cons cell m ih =>
    obtain ⟨b, y⟩ := cell
    by_cases hb : lo ≤ b
    · rw [List.filter_cons_of_pos (by simpa using hb), Memory.read, Memory.read, ih]
      by_cases hab : a = b
      · simp [hab, hb]
      · simp [hab]
    · rw [List.filter_cons_of_neg (by simpa using hb), ih, Memory.read]
      by_cases ha : lo ≤ a
      · have hab : a ≠ b := by omega
        simp [hab]
      · simp [ha]

/-- Settles O52: memory keeps the cells from 0x200 up, and below reads as its reset contents. -/
theorem warmResetKeepsTheProgram : Obligations.WarmResetKeepsTheProgram := by
  intro s
  refine ⟨fun a ha => ?_, fun a ha => ?_, rfl⟩
  · exact (Memory.read_filter_from s.cfg.font s.mem 0x200 a).trans (if_pos ha)
  · exact (Memory.read_filter_from s.cfg.font s.mem 0x200 a).trans (if_neg (by omega))

/-! Loading, and the operations that write one field -/

theorem setByte_restore_mem (s : State) (a : Nat) (x : Byte) : { s.setByte a x with mem := s.mem } = s := by
  unfold State.setByte
  split <;> rfl

/-- A block store writes memory alone. -/
theorem setBytes_restore_mem (s : State) (a : Nat) (xs : List Byte) : { s.setBytes a xs with mem := s.mem } = s := by
  induction xs generalizing s a with
  | nil => rfl
  | cons x xs ih =>
    have hrest := congrArg (fun u : State => { u with mem := s.mem }) (ih (s.setByte a x) (a + 1))
    exact hrest.trans (setByte_restore_mem s a x)

/-- Settles O53: a ROM of this length is written as one block. -/
theorem loaderWritesTheRom : Obligations.LoaderWritesTheRom := by
  intro s rom hlen
  refine ⟨s.setBytes 0x200 rom, (loadRom_eq_some s _ rom).2 ⟨hlen, rfl⟩, fun k hk => ?_, fun c hc => ?_,
    setBytes_restore_mem s _ rom⟩
  · have hin : 0x200 ≤ 0x200 + k ∧ 0x200 + k < 0x200 + rom.length ∧ 0x200 + k ≤ memTop :=
      ⟨by omega, by omega, by unfold memTop; omega⟩
    rw [State.byteAt_setBytes, if_pos hin, Nat.add_sub_cancel_left, List.getD_eq_getElem _ _ hk]
  · rw [State.byteAt_setBytes, if_neg (by omega)]

/-- Settles O54: each operation is the update of its field. -/
theorem hostWritesOnlyItsOwnFields : Obligations.HostWritesOnlyItsOwnFields := fun _ _ => ⟨rfl, rfl, rfl⟩

end Sys2Proof.Machine
end
